-- ==== Sys2Proof/Word.lean ====
section
/-! DEFINITION. The word types of the gl-math numeric core (00_scope.md R8, R9): every width is fixed.
Arithmetic on them is Lean's own BitVec arithmetic, which wraps modulo the width (R10), shifts
logically (R12) and compares unsigned (R14). -/

namespace Sys2Proof

/-- A half-precision pattern (40_half_codec.md R56). -/
abbrev Half := BitVec 16

/-- A single-precision pattern (40_half_codec.md R57); also the word of a HASH_WIDTH = 32 build (R6). -/
abbrev Single := BitVec 32

/-- The 32-bit word of unit MH3 in a HASH_WIDTH = 32 build (00_scope.md R6, R9). -/
abbrev Word32 := BitVec 32

/-- The 64-bit word: command data, response data, and unit MH3's registers (00_scope.md R8). -/
abbrev Word64 := BitVec 64

/-- A command word, op ++ data (30_encoding.md R45). -/
abbrev CommandWord := BitVec 68

/-- A response word, rtype ++ rdata (30_encoding.md R46). -/
abbrev ResponseWord := BitVec 66

end Sys2Proof
end

