-- ==== Sys2Proof/Config.lean ====
section
/-! DEFINITION. The build parameters (00_scope.md R6, R7, R8) and the free values: what the spec leaves
unspecified is an opaque constant here, so that nothing can be proved of the value it takes. -/

namespace Sys2Proof

/-- `HASH_WIDTH` (00_scope.md R6): its two legal values, each selecting a whole algorithm. -/
inductive HashWidth where
  | w64
  | w32
deriving DecidableEq, Repr

/-- The build parameters of a block (00_scope.md R8's table). They are constants of the build, not
registers (10_state.md R28): State carries them and no step changes them. -/
structure Config where
  /-- `HASH_WIDTH` (R6). -/
  hashWidth : HashWidth
  /-- `C_H2B`, the additive constant of the lane-2 round (R7). -/
  cH2B : Word64
deriving DecidableEq, Repr

namespace Config

/-- This hardware: HASH_WIDTH = 64 and C_H2B = 0x38495ab5 (00_scope.md R6, R7; D3, D4). -/
def thisHardware : Config := { hashWidth := .w64, cH2B := 0x0000000038495ab5#64 }

/-- The legal values of the parameters (00_scope.md R8). -/
def legal (c : Config) : Bool :=
  c.cH2B == 0x0000000038495ab5#64 || c.cH2B == 0x0000000003845ab5#64

/-- Free values for the 64-bit registers whose contents the spec leaves unspecified (10_state.md R23,
R30; U7). Log entry 4. -/
opaque freeWord : Nat → Word64

/-- Free values for the 32-bit registers of a HASH_WIDTH = 32 build (10_state.md R23, R30; U7). Log entry 4. -/
opaque freeWord32 : Nat → Word32

/-- Free choice: is a command that a reset directly follows dropped (70_reset_and_hazards.md R120; U12)?
Log entry 5. -/
opaque freeDrop : Nat → Bool

end Config

end Sys2Proof
end

