-- ==== Sys2Proof/Machine/State.lean ====
section
/-! DEFINITION. The state of the block as plain data: the registers of 10_state.md R17 (and those of a
HASH_WIDTH = 32 build, R105), the two ports of 20_memory.md R32 as lists, the build parameters, and
the model's own counter of free values. There is no memory, no program counter and no flag (R25 to
R31). -/

namespace Sys2Proof.Machine

/-- `rtype` (30_encoding.md R46). The value 3 is never produced and has no constructor (U9). -/
inductive RType where
  | ack
  | data
  | err
deriving DecidableEq, Repr

/-- A response: its type and its 64-bit datum (30_encoding.md R46). -/
structure Response where
  rtype : RType
  rdata : Word64
deriving DecidableEq, Repr

/-- What the host does next: offers one command word on the command port, or asserts `reset`
(20_memory.md R32; 60_exceptions.md R118). -/
inductive HostAction where
  | command (w : CommandWord)
  | reset
deriving DecidableEq, Repr

structure State where
  /-- The build parameters (00_scope.md R6, R7). No step changes them. DESIGN CHOICE, log entry 1. -/
  cfg : Config
  /-- `ACT`, one while a hash sequence is in progress (10_state.md R18); in either build. -/
  act : Bool
  /-- `H1` (10_state.md R19). -/
  h1 : Word64
  /-- `H2` (10_state.md R19). -/
  h2 : Word64
  /-- `CNT` (10_state.md R20). -/
  cnt : Word64
  /-- `REM` (10_state.md R21). -/
  rem : Word64
  /-- `KH` (10_state.md R22). -/
  kh : Word64
  /-- `PH` (10_state.md R22). -/
  ph : Bool
  /-- `H1` of a HASH_WIDTH = 32 build (42_hash32_variant.md R105). DESIGN CHOICE, log entry 2: State holds the
  registers of both builds, and a step touches only those of its own. -/
  h1_32 : Word32
  /-- `CNT` of a HASH_WIDTH = 32 build (R105). -/
  cnt_32 : Word32
  /-- `REM` of a HASH_WIDTH = 32 build (R105). -/
  rem_32 : Word32
  /-- The host's actions still to come, the next one first (20_memory.md R32, R39). -/
  input : List HostAction
  /-- The responses produced so far, oldest first (20_memory.md R40). DESIGN CHOICE, log entry 9: a reset takes
  none of them back. -/
  rsps : List Response
  /-- The model's own: how many free values have been drawn. DESIGN CHOICE, log entry 4. -/
  free : Nat
deriving DecidableEq, Repr

/-- The block raises no exception and has no fault state (60_exceptions.md R109), so nothing raises a
fault and the type has no constructor; safe: no run stops where the hardware goes on. -/
inductive Fault where
deriving DecidableEq, Repr

/-- The reasons the model declines to run a command. -/
inductive Refusal where
  /-- An instruction without a meaning; raised by no arm of exec as it stands. Safe. -/
  | notModelled (mnemonic : String)
deriving DecidableEq, Repr

/-- After reset (10_state.md R30): ACT = 0 and PH = 0, no command pending, no response produced. The
registers R30 leaves unspecified hold zero here: DESIGN CHOICE (log entry 3), no statement rests on it. -/
def State.reset : State where
  cfg := Config.thisHardware
  act := false
  h1 := 0
  h2 := 0
  cnt := 0
  rem := 0
  kh := 0
  ph := false
  h1_32 := 0
  cnt_32 := 0
  rem_32 := 0
  input := []
  rsps := []
  free := 0

end Sys2Proof.Machine
end

