-- ==== Sys2Proof/Machine/Flags.lean ====
section
/-! DEFINITION. The status a host sees. The block has no condition code, carry, sticky bit or exception
flag (10_state.md R28); the only status is the `rtype` of each response and the code of an `ERR`
(30_encoding.md R46, 60_exceptions.md R110). -/

namespace Sys2Proof.Machine

/-- The 2-bit code of a response type (30_encoding.md R46). -/
def rtypeCode : RType → BitVec 2
  | .ack => 0
  | .data => 1
  | .err => 2

/-- The response word `RW = rtype ++ rdata` (30_encoding.md R46). -/
def Response.word (r : Response) : ResponseWord := rtypeCode r.rtype ++ r.rdata

/-- `E_RESERVED` (60_exceptions.md R110). -/
def errReserved : Word64 := 1

/-- `E_IDLE` (60_exceptions.md R110). -/
def errIdle : Word64 := 2

end Sys2Proof.Machine
end

