-- ==== Sys2Proof/Machine/Operands.lean ====
section
/-! DEFINITION. Where a result stands in `rdata` (30_encoding.md R49): right-justified and zero-extended.
Operands are cut out of `data` in Decode.lean (R48); a signed element and its unsigned reading are
the same bits (00_scope.md R15), so nothing is converted. -/

namespace Sys2Proof.Machine

/-- `zext_64` of a single, the result of H2F (R49), and of a 32-bit hash (R105, R106). -/
def placeSingle (x : Single) : Word64 := x.setWidth 64

/-- `zext_64` of a half, the result of F2H (R49). -/
def placeHalf (h : Half) : Word64 := h.setWidth 64

end Sys2Proof.Machine
end

