-- ==== Sys2Proof/Machine/Ops.lean ====
section
/-! DEFINITION. The shared operations: rotation, the response port, the one form an error takes, and
going idle. The block has no trap to enter and none to return from (60_exceptions.md R113, R114); its
only abnormal answer is `answerErr`. -/

namespace Sys2Proof.Machine

/-- Rotate left (00_scope.md R13), for 0 < r < n. -/
def rotl {n : Nat} (a : BitVec n) (r : Nat) : BitVec n := (a <<< r) ||| (a >>> (n - r))

/-- `respond(type, data)` (00_scope.md R16): one response word leaves, after all earlier ones (20_memory.md R40). -/
def respond (t : RType) (v : Word64) (s : State) : State :=
  { s with rsps := s.rsps ++ [{ rtype := t, rdata := v }] }

/-- `respond(ACK, 0)` (30_encoding.md R46). -/
def answerAck (s : State) : State := respond .ack 0 s

/-- `respond(ERR, code)`: nothing is saved and no register changes (60_exceptions.md R110, R113). -/
def answerErr (code : Word64) (s : State) : State := respond .err code s

/-- The 64-bit unit goes idle (10_state.md R23, R30): ACT and PH are 0, and H1, H2, CNT, REM and KH become
unspecified, so each takes a fresh free value (DESIGN CHOICE, log entry 4). -/
def goIdle64 (s : State) : State :=
  { s with
    act := false
    ph := false
    h1 := Config.freeWord s.free
    h2 := Config.freeWord (s.free + 1)
    cnt := Config.freeWord (s.free + 2)
    rem := Config.freeWord (s.free + 3)
    kh := Config.freeWord (s.free + 4)
    free := s.free + 5 }

/-- The 32-bit unit goes idle (42_hash32_variant.md R105, R106; 10_state.md R23, R30): ACT is 0 and H1, CNT
and REM become unspecified (DEDUCED, log entry 8). -/
def goIdle32 (s : State) : State :=
  { s with
    act := false
    h1_32 := Config.freeWord32 s.free
    cnt_32 := Config.freeWord32 (s.free + 1)
    rem_32 := Config.freeWord32 (s.free + 2)
    free := s.free + 3 }

/-- The reset event (70_reset_and_hazards.md R119): the unit that the build has goes idle, an open sequence
is forgotten, and no response is produced. -/
def applyReset (s : State) : State :=
  match s.cfg.hashWidth with
  | .w64 => goIdle64 s
  | .w32 => goIdle32 s

end Sys2Proof.Machine
end

