-- ==== Sys2Proof/Machine/Codec.lean ====
section
/-! DEFINITION. Unit HFC, the half-float codec (40_half_codec.md R56 to R80): the commands H2F and F2H.
Both are stateless (10_state.md R27): they read their operand and append one response.
A sum with a constant has the constant on the left, as in Hash64.lean. -/

namespace Sys2Proof.Machine

/-! ## H2F, half to single (R69 to R75) -/

/-- The sign, widened to bit 31 (R70). -/
def h2fSign (i : Half) : Single := ((i &&& 0x8000#16).setWidth 32) <<< 16

/-- The exponent field, left in place (R70). -/
def h2fExp (i : Half) : Single := (i &&& 0x7c00#16).setWidth 32

/-- The significand field (R70). -/
def h2fSig (i : Half) : Single := (i &&& 0x03ff#16).setWidth 32

/-- The loop of R72: shift left until bit 10 appears, counting the shifts from `n`. The loop ends after
at most 10 shifts when m is a non-zero 10-bit value, so 10 is fuel enough. -/
def normalize (fuel : Nat) (m : Single) (n : Nat) : Single × Nat :=
  match fuel with
  | 0 => (m, n)
  | fuel + 1 => if m &&& 0x400#32 = 0#32 then normalize fuel (m <<< 1) (n + 1) else (m, n)

/-- R71. -/
def h2fZero (i : Half) : Single := h2fSign i

/-- R72: the exponent field is 113 - n, with n the number of shifts (D22, 90_conflicts.md C2). -/
def h2fSubnormal (i : Half) : Single :=
  let r := normalize 10 (h2fSig i) 0
  h2fSign i ||| (BitVec.ofNat 32 (113 - r.2) <<< 23) ||| ((r.1 &&& 0x3ff#32) <<< 13)

/-- R73. -/
def h2fInfOrNan (i : Half) : Single := h2fSign i ||| 0x7f800000#32 ||| (h2fSig i <<< 13)

/-- R74. -/
def h2fNormal (i : Half) : Single :=
  h2fSign i ||| ((0x1c000#32 + (i &&& 0x7fff#16).setWidth 32) <<< 13)

/-- `h2f`, by the case selection of R70. -/
def h2f (i : Half) : Single :=
  if h2fExp i = 0#32 then
    if h2fSig i = 0#32 then h2fZero i else h2fSubnormal i
  else if h2fExp i = 0x7c00#32 then h2fInfOrNan i
  else h2fNormal i

/-- `H2F` (R69): respond DATA with the zero-extended single. -/
def execH2f (i : Half) (s : State) : Host.Outcome State Fault Refusal :=
  .next (respond .data (placeSingle (h2f i)) s)

/-! ## F2H, single to half (R59 to R68) -/

/-- The sign, moved to bit 15 (R60). -/
def f2hSign (x : Single) : Single := (x >>> 16) &&& 0x8000#32

/-- The exponent field, left in place (R60; 90_conflicts.md C7). -/
def f2hExp (x : Single) : Single := x &&& 0x7f800000#32

/-- The significand field (R60). -/
def f2hSig (x : Single) : Single := x &&& 0x7fffff#32

/-- R62. -/
def f2hZero (x : Single) : Half := (f2hSign x).extractLsb' 0 16

/-- R63. -/
def f2hSubnormal (x : Single) : Half :=
  let t := f2hExp x >>> 23
  let m1 := f2hSig x ||| 0x800000#32
  let m2 := m1 >>> (113 - t.toNat)
  let m3 := (0x1000#32 + m2) >>> 13
  (f2hSign x ||| m3).extractLsb' 0 16

/-- R64. -/
def f2hInfinity (x : Single) : Half := (f2hSign x ||| 0x7c00#32).extractLsb' 0 16

/-- R65: a payload that truncates to zero is forced to 1, the sign kept (D21, 90_conflicts.md C5). -/
def f2hNan (x : Single) : Half :=
  let p := f2hSig x >>> 13
  if p = 0#32 then (f2hSign x ||| 0x7c01#32).extractLsb' 0 16
  else (f2hSign x ||| 0x7c00#32 ||| p).extractLsb' 0 16

/-- R66: the three terms are added, so that a rounding carry runs into the exponent field. -/
def f2hNormal (x : Single) : Half :=
  let e1 := f2hExp x - 0x38000000#32
  let m1 := 0x1000#32 + f2hSig x
  (f2hSign x + (e1 >>> 13) + (m1 >>> 13)).extractLsb' 0 16

/-- `f2h`, by the case selection of R61. -/
def f2h (x : Single) : Half :=
  if f2hExp x ≤ 0x38000000#32 then
    if f2hExp x < 0x33000000#32 then f2hZero x else f2hSubnormal x
  else if 0x47800000#32 ≤ f2hExp x then
    if f2hExp x = 0x7f800000#32 ∧ f2hSig x ≠ 0#32 then f2hNan x else f2hInfinity x
  else f2hNormal x

/-- `F2H` (R59): respond DATA with the zero-extended half. -/
def execF2h (x : Single) (s : State) : Host.Outcome State Fault Refusal :=
  .next (respond .data (placeHalf (f2h x)) s)

end Sys2Proof.Machine
end

