-- ==== Sys2Proof/Machine/Hash32.lean ====
section
/-! DEFINITION. Unit MH3 in a HASH_WIDTH = 32 build (42_hash32_variant.md R98 to R108): one lane, one round per
element, no element dropped. This hardware is the other build (00_scope.md R4, R6); the commands
here are what opcodes 4 and 5 mean where State's `cfg` says HASH_WIDTH = 32. -/

namespace Sys2Proof.Machine

/-! ## Constants (R98) -/

def C1_32 : Word32 := 0xcc9e2d51#32
def C2_32 : Word32 := 0x1b873593#32

/-! ## The pure functions (constants on the left, as in Hash64.lean) -/

/-- The avalanche mix (R99). -/
def fmix32 (h : Word32) : Word32 :=
  let a := 0x85ebca6b#32 * (h ^^^ (h >>> 16))
  let b := 0xc2b2ae35#32 * (a ^^^ (a >>> 13))
  b ^^^ (b >>> 16)

/-- The element transform (R100). -/
def premix32 (k : Word32) : Word32 := C2_32 * rotl (C1_32 * k) 15

/-- The round (R101). -/
def round32 (h1 k : Word32) : Word32 := 0xe6546b64#32 + 5 * rotl (h1 ^^^ premix32 k) 13

/-- Initialisation (R102). -/
def init32 (n : Word32) : Word32 := C1_32 ^^^ n

/-- Finalisation (R103). -/
def fin32 (h1 n : Word32) : Word32 := fmix32 (h1 ^^^ n)

/-- The hash of a sequence (R104), of fewer than 2^32 elements. -/
def seqHash32 (xs : List Word32) : Word32 :=
  let n := BitVec.ofNat 32 xs.length
  fin32 (xs.foldl round32 (init32 n)) n

/-! ## The commands -/

/-- A sequence of `n` elements opens; one already open is abandoned (R105). -/
def open32 (n : Word32) (s : State) : State :=
  { s with h1_32 := init32 n, cnt_32 := n, rem_32 := n, act := true }

/-- An element that is not the last has been mixed (R106). -/
def mixed32 (h : Word32) (s : State) : State := { s with h1_32 := h, rem_32 := s.rem_32 - 1 }

/-- `HINIT` of a 32-bit build (R105). -/
def execHinit32 (n : Word32) (s : State) : Host.Outcome State Fault Refusal :=
  if n = 0 then .next (respond .data (placeSingle (fin32 C1_32 0)) (goIdle32 s))
  else .next (answerAck (open32 n s))

/-- `HPUSH` of a 32-bit build (R106). -/
def execHpush32 (k : Word32) (s : State) : Host.Outcome State Fault Refusal :=
  if s.act = false then .next (answerErr errIdle s)
  else if s.rem_32 = 1 then
    .next (respond .data (placeSingle (fin32 (round32 s.h1_32 k) s.cnt_32)) (goIdle32 s))
  else .next (answerAck (mixed32 (round32 s.h1_32 k) s))

end Sys2Proof.Machine
end

