-- ==== Sys2Proof/Machine/Hash64.lean ====
section
/-! DEFINITION. Unit MH3 in a HASH_WIDTH = 64 build (41_hash64.md R81 to R97): the pure functions of the hash,
then the commands HINIT and HPUSH that evaluate them over a stream. -/

namespace Sys2Proof.Machine

/-! ## Constants (R81) -/

def C1 : Word64 := 0x87c37b91114253d5#64
def C2 : Word64 := 0x4cf5ad432745937f#64
def C_H1A : Word64 := 0x0000000052dce729#64
def FM1 : Word64 := 0xff51afd7ed558ccd#64
def FM2 : Word64 := 0xc4ceb9fe1a85ec53#64

/-! ## The pure functions

A product or sum with a constant has the constant on the left: it is the same word (00_scope.md R10), and
so written it does not make Lean count up to the constant when it compares terms. -/

/-- `k ^ (k >> 33)`, the xor-shift of R82. -/
def xorShift33 (k : Word64) : Word64 := k ^^^ (k >>> 33)

/-- The avalanche mix (R82). -/
def fmix64 (k : Word64) : Word64 := xorShift33 (FM2 * xorShift33 (FM1 * xorShift33 k))

/-- The element transform of lane 1 (R83). -/
def premix1 (k : Word64) : Word64 := C2 * rotl (C1 * k) 31

/-- The element transform of lane 2 (R84). -/
def premix2 (k : Word64) : Word64 := C1 * rotl (C2 * k) 33

/-- The lane-1 round (R86). -/
def lane1 (h1 h2 k : Word64) : Word64 := C_H1A + 5 * (rotl (h1 ^^^ premix1 k) 27 + h2)

/-- The lane-2 round (R87); `h1` is the value lane 1 has just produced, `c` the build's `C_H2B`. -/
def lane2 (c h1 h2 k : Word64) : Word64 := c + 5 * (rotl (h2 ^^^ premix2 k) 31 + h1)

/-- One pair: lane 1 first, lane 2 on its result (R87). -/
def pairRound (c : Word64) (h : Word64 × Word64) (x y : Word64) : Word64 × Word64 :=
  let a := lane1 h.1 h.2 x
  (a, lane2 c a h.2 y)

/-- Initialisation (R88). -/
def init64 (n : Word64) : Word64 × Word64 := (C1 ^^^ n, C2 ^^^ n)

/-- Finalisation (R89); its last, dead line is left out, as the rule allows. -/
def fin64 (h1 h2 n : Word64) : Word64 :=
  let a := (h1 ^^^ n) + (h2 ^^^ n)
  let b := (h2 ^^^ n) + a
  fmix64 a + fmix64 b

/-- The pairs (x[2j], x[2j+1]) of a sequence in order; an unpaired last element is dropped (R85, R91). -/
def pairsOf : List Word64 → List (Word64 × Word64)
  | x :: y :: xs => (x, y) :: pairsOf xs
  | _ => []

/-- The rounds of all pairs of a sequence, in order (R90). -/
def pairRounds (c : Word64) (h : Word64 × Word64) (xs : List Word64) : Word64 × Word64 :=
  (pairsOf xs).foldl (fun h p => pairRound c h p.1 p.2) h

/-- The hash of a sequence (R90), of fewer than 2^64 elements. -/
def seqHash64 (c : Word64) (xs : List Word64) : Word64 :=
  let n := BitVec.ofNat 64 xs.length
  let h := pairRounds c (init64 n) xs
  fin64 h.1 h.2 n

/-! ## The commands -/

/-- A sequence of `n` elements opens; one already open is abandoned (R92). KH is not written. -/
def open64 (n : Word64) (s : State) : State :=
  { s with
    h1 := (init64 n).1
    h2 := (init64 n).2
    cnt := n
    rem := n
    ph := false
    act := true }

/-- An even-index element is held until its partner comes (R93; 10_state.md R22). -/
def hold64 (k : Word64) (s : State) : State := { s with kh := k, ph := true, rem := s.rem - 1 }

/-- A pair that is not the last has been mixed (R93). -/
def mixed64 (h : Word64 × Word64) (s : State) : State :=
  { s with ph := false, h1 := h.1, h2 := h.2, rem := s.rem - 1 }

/-- `HINIT` (R92). -/
def execHinit (n : Word64) (s : State) : Host.Outcome State Fault Refusal :=
  if n = 0 then .next (respond .data (fin64 C1 C2 0) (goIdle64 s))
  else .next (answerAck (open64 n s))

/-- `HPUSH` (R93). The finalisation reads the accumulators before the unit goes idle. -/
def execHpush (k : Word64) (s : State) : Host.Outcome State Fault Refusal :=
  if s.act = false then .next (answerErr errIdle s)
  else if s.ph = false then
    if s.rem = 1 then .next (respond .data (fin64 s.h1 s.h2 s.cnt) (goIdle64 s))
    else .next (answerAck (hold64 k s))
  else
    let h := pairRound s.cfg.cH2B (s.h1, s.h2) s.kh k
    if s.rem = 1 then .next (respond .data (fin64 h.1 h.2 s.cnt) (goIdle64 s))
    else .next (answerAck (mixed64 h s))

end Sys2Proof.Machine
end

