-- ==== Sys2Proof/Syntax.lean ====
section
/-! DEFINITION. The commands, one constructor per row of spec/opcode_table.json (30_encoding.md R47). -/

namespace Sys2Proof

/-- A command with its operand, already cut to the width the command uses (30_encoding.md R48, R52). -/
inductive Instr where
  /-- `H2F`, half to single (40_half_codec.md R69). -/
  | h2f (i : Half)
  /-- `F2H`, single to half (40_half_codec.md R59). -/
  | f2h (x : Single)
  /-- `HINIT` of a HASH_WIDTH = 64 build (41_hash64.md R92). -/
  | hinit (n : Word64)
  /-- `HPUSH` of a HASH_WIDTH = 64 build (41_hash64.md R93). -/
  | hpush (k : Word64)
  /-- `HINIT` of a HASH_WIDTH = 32 build, the table's HINIT32 (42_hash32_variant.md R105). -/
  | hinit32 (n : Word32)
  /-- `HPUSH` of a HASH_WIDTH = 32 build, the table's HPUSH32 (42_hash32_variant.md R106). -/
  | hpush32 (k : Word32)
deriving DecidableEq, Repr

end Sys2Proof
end

