-- ==== Sys2Proof/Machine/Dispatch.lean ====
section
/-! DEFINITION. exec: one arm per command, each calling that command's meaning. -/

namespace Sys2Proof.Machine

def exec (i : Instr) (s : State) : Host.Outcome State Fault Refusal :=
  match i with
  | .h2f h => Sys2Proof.Machine.execH2f h s
  | .f2h x => Sys2Proof.Machine.execF2h x s
  | .hinit n => Sys2Proof.Machine.execHinit n s
  | .hpush k => Sys2Proof.Machine.execHpush k s
  | .hinit32 n => Sys2Proof.Machine.execHinit32 n s
  | .hpush32 k => Sys2Proof.Machine.execHpush32 k s

end Sys2Proof.Machine
end

