-- ==== Sys2Proof/WellFormed.lean ====
section
/-! DEFINITION. Which commands a build has. Operand widths are in the types of Instr, so the one check
left is the table's "when" column: the hash commands of the other HASH_WIDTH do not exist in a build. -/

namespace Sys2Proof

/-- Does the build with hash width `hw` have this command (30_encoding.md R47; opcode_table.json "when")? -/
def Instr.wellFormed (hw : HashWidth) : Instr → Bool
  | .h2f _ => true
  | .f2h _ => true
  | .hinit _ => hw == .w64
  | .hpush _ => hw == .w64
  | .hinit32 _ => hw == .w32
  | .hpush32 _ => hw == .w32

end Sys2Proof
end

