-- ==== Sys2Proof/Decode.lean ====
section
/-! DEFINITION. Decoding of command words (30_encoding.md R45 to R52), total on all 2^68 words, and the
encoder. A decoded Instr holds only the operand bits of R48; the ignored bits are gone. -/

namespace Sys2Proof

/-- The `op` field, bits 67 to 64 (R45). -/
def opField (w : CommandWord) : BitVec 4 := w.extractLsb' 64 4

/-- The `data` field, bits 63 to 0 (R45). -/
def dataField (w : CommandWord) : Word64 := w.extractLsb' 0 64

/-- What a command word selects: a command, or a reserved opcode by its number (R52). -/
inductive Command where
  | instr (i : Instr)
  | reserved (op : BitVec 4)
deriving DecidableEq, Repr

/-- The opcode map (R47) with the operand extraction of R48, by `op` alone (R51). In a HASH_WIDTH = 32
build opcodes 4 and 5 take the operands of R105 and R106. -/
def decode (hw : HashWidth) (w : CommandWord) : Command :=
  if opField w = 0x1#4 then .instr (.h2f ((dataField w).extractLsb' 0 16))
  else if opField w = 0x2#4 then .instr (.f2h ((dataField w).extractLsb' 0 32))
  else if opField w = 0x4#4 then
    match hw with
    | .w64 => .instr (.hinit (dataField w))
    | .w32 => .instr (.hinit32 ((dataField w).extractLsb' 0 32))
  else if opField w = 0x5#4 then
    match hw with
    | .w64 => .instr (.hpush (dataField w))
    | .w32 => .instr (.hpush32 ((dataField w).extractLsb' 0 32))
  else .reserved (opField w)

/-- The command's opcode (R47). -/
def Instr.opcode : Instr → BitVec 4
  | .h2f _ => 0x1#4
  | .f2h _ => 0x2#4
  | .hinit _ => 0x4#4
  | .hpush _ => 0x5#4
  | .hinit32 _ => 0x4#4
  | .hpush32 _ => 0x5#4

/-- The command's operand, right-justified, ignored bits zero (R48, R53). -/
def Instr.data : Instr → Word64
  | .h2f i => i.setWidth 64
  | .f2h x => x.setWidth 64
  | .hinit n => n
  | .hpush k => k
  | .hinit32 n => n.setWidth 64
  | .hpush32 k => k.setWidth 64

/-- `CW = op ++ data` (R45). -/
def commandWord (op : BitVec 4) (data : Word64) : CommandWord := op ++ data

/-- The word an assembler writes for a command (R45, R47, R48). -/
def encode (i : Instr) : CommandWord := commandWord i.opcode i.data

/-- The bits of a command word that its meaning depends on: `op` and the operand bits (R48, R105, R106). -/
def Instr.usedBits : Instr → CommandWord
  | .h2f _ => 0xf000000000000ffff#68
  | .f2h _ => 0xf00000000ffffffff#68
  | .hinit _ => 0xfffffffffffffffff#68
  | .hpush _ => 0xfffffffffffffffff#68
  | .hinit32 _ => 0xf00000000ffffffff#68
  | .hpush32 _ => 0xf00000000ffffffff#68

/-- The command word that an opcode-table number spells: the port takes the 68 bits in parallel (20_memory.md
R35), so bit i of the number is bit i of the word. A number with a bit above 67 is no command word (DEDUCED,
log entry 10). -/
def tableCommandWord (nbits w : Nat) : Option CommandWord :=
  if w % 2 ^ nbits < 2 ^ 68 then some (BitVec.ofNat 68 (w % 2 ^ nbits)) else none

/-- The instruction this hardware's decoder (HASH_WIDTH = 64, R6) reads from an opcode-table number.
Opcodes 4 and 5 are HINIT and HPUSH here, never HINIT32 and HPUSH32 (R47; log entry
10). -/
def decodeTableWord (nbits w : Nat) : Option Instr :=
  match tableCommandWord nbits w with
  | none => none
  | some cw =>
    match decode Config.thisHardware.hashWidth cw with
    | .instr i => some i
    | .reserved _ => none

end Sys2Proof
end

