-- ==== Sys2Proof/Machine/Port.lean ====
section
/-! DEFINITION. The command port: what the block takes in next (20_memory.md R32, R39; 70_reset_and_hazards.md
R119, R120). There is no instruction fetch; the host's actions arrive in order. -/

namespace Sys2Proof.Machine

/-- What one look at the port gives: the state is settled with no command to run, or a command runs. -/
inductive Accepted where
  | settled (s : State)
  | run (i : Instr) (s : State)
deriving DecidableEq, Repr

/-- Is the host's next action a reset? -/
def resetFollows (rest : List HostAction) : Bool :=
  match rest with
  | .reset :: _ => true
  | _ => false

/-- A reserved opcode: answered ERR 1, no register changes (30_encoding.md R50). -/
def answerReserved (s : State) : State := answerErr errReserved s

/-- A command word is accepted: `op` is examined first (60_exceptions.md R112). -/
def acceptWord (w : CommandWord) (s : State) : Accepted :=
  match decode s.cfg.hashWidth w with
  | .instr i => .run i s
  | .reserved _ => .settled (answerReserved s)

/-- A command that a reset hits in flight: no effect and no response (70_reset_and_hazards.md R120). -/
def dropCommand (s : State) : State := { s with free := s.free + 1 }

/-- The host's next action has been taken and `rest` is still to come. -/
def withInput (rest : List HostAction) (s : State) : State := { s with input := rest }

/-- The next host action, if there is one. With none the block waits (70_reset_and_hazards.md R125; DESIGN CHOICE, log
entry 7). Whether a command directly followed by a reset completes or is dropped is a free choice (R120;
DESIGN CHOICE, log entry 5). -/
def acceptNext (s : State) : Accepted :=
  match s.input with
  | [] => .settled s
  | .reset :: rest => .settled (applyReset (withInput rest s))
  | .command w :: rest =>
    if resetFollows rest && Config.freeDrop s.free then .settled (dropCommand (withInput rest s))
    else acceptWord w (withInput rest s)

/-- The actions from the first command on. -/
def withoutLeadingResets (rest : List HostAction) : List HostAction :=
  match rest with
  | .reset :: more => withoutLeadingResets more
  | _ => rest

/-- The host's next action is the command word `w`, and no reset directly follows it. -/
def offerCommand (w : CommandWord) (s : State) : State :=
  { s with input := .command w :: withoutLeadingResets s.input }

end Sys2Proof.Machine
end

