-- ==== Sys2Proof/Machine/Step.lean ====
section
/-! DEFINITION. One step: one host action (20_memory.md R32, R39). -/

namespace Sys2Proof.Machine

/-- Take the host's next action and, where it is a command of the build, run it. -/
def step (s : State) : Host.Outcome State Fault Refusal :=
  match acceptNext s with
  | .settled t => .next t
  | .run i t => exec i t

/-- The command word with the opcode-table number `w` is offered on the command port as the host's next
action, so that the next step runs it (log entry 6). -/
def State.withFetchWord (s : State) (nbits w : Nat) : State :=
  offerCommand (BitVec.ofNat 68 (w % 2 ^ nbits)) s

end Sys2Proof.Machine
end

