-- ==== Sys2Proof/Machine/Abstract.lean ====
section
/-! DEFINITION. The abstract view of unit MH3 that 10_state.md R23 allows in place of the seven registers, with
HINIT and HPUSH on it. The machine itself uses the registers; a statement says the two agree. -/

namespace Sys2Proof.Machine

/-- R23's sum type. -/
inductive MH3State where
  | idle
  | active (h1 h2 cnt rem : Word64) (hold : Option Word64)
deriving DecidableEq, Repr

/-- The view of the registers (R23): idle for ACT = 0, the held element for PH = 1. -/
def mh3View (s : State) : MH3State :=
  if s.act then .active s.h1 s.h2 s.cnt s.rem (if s.ph then some s.kh else none) else .idle

/-- HINIT on the abstract view (41_hash64.md R92): the new view and the response. -/
def mh3Hinit (n : Word64) : MH3State × Response :=
  if n = 0 then (.idle, { rtype := .data, rdata := fin64 C1 C2 0 })
  else (.active (C1 ^^^ n) (C2 ^^^ n) n n none, { rtype := .ack, rdata := 0 })

/-- HPUSH on the abstract view (41_hash64.md R93), `c` being the build's `C_H2B`. -/
def mh3Hpush (c k : Word64) : MH3State → MH3State × Response
  | .idle => (.idle, { rtype := .err, rdata := 2 })
  | .active h1 h2 cnt rem none =>
    if rem = 1 then (.idle, { rtype := .data, rdata := fin64 h1 h2 cnt })
    else (.active h1 h2 cnt (rem - 1) (some k), { rtype := .ack, rdata := 0 })
  | .active h1 h2 cnt rem (some e) =>
    let a := lane1 h1 h2 e
    let b := lane2 c a h2 k
    if rem = 1 then (.idle, { rtype := .data, rdata := fin64 a b cnt })
    else (.active a b cnt (rem - 1) none, { rtype := .ack, rdata := 0 })

end Sys2Proof.Machine
end

