-- ==== Sys2Proof/Machine/Assembler.lean ====
section
/-! DEFINITION. The textual form of command streams and responses (30_encoding.md R46, R53, R54, R55; D24). It
belongs to the host's side of the port: the block sees command words only. Text is a list of
characters. What the rules leave open of the text is DESIGN CHOICE, log entry 11. -/

namespace Sys2Proof.Machine

/-- One line of a command stream, its literals read as integers (R53, R54). The pseudo-instructions
floatFromHalf and halfFromFloat are other spellings of `h2f` and `f2h`. -/
inductive AsmLine where
  | empty
  | h2f (v : Int)
  | f2h (v : Int)
  | hinit (v : Int)
  | hpush (v : Int)
  | hash (es : List Int)
  | cw (v : Int)
deriving DecidableEq, Repr

/-- An element literal as the assembler takes it: the 64-bit two's-complement pattern of a negative one (R53). -/
def elementOf (v : Int) : Option Word64 :=
  if -(2 ^ 63) ≤ v ∧ v < 2 ^ 64 then some (BitVec.ofInt 64 v) else none

/-- All elements of a `hash(...)`, if every one is in range. -/
def elementsOf : List Int → Option (List Word64)
  | [] => some []
  | v :: vs =>
    match elementOf v, elementsOf vs with
    | some k, some ks => some (k :: ks)
    | _, _ => none

/-- The expansion of `hash(e0, ..., e(n-1))`: hinit n, then one hpush for each element (R54 c). -/
def hashCommands (xs : List Word64) : List Instr :=
  .hinit (BitVec.ofNat 64 xs.length) :: xs.map .hpush

/-- An unsigned literal of at most `n` bits (R53: a wider one is an assembly error). -/
def fieldOf (n : Nat) (v : Int) : Option (BitVec n) :=
  if 0 ≤ v ∧ v < 2 ^ n then some (BitVec.ofInt n v) else none

/-- The command words of a line, or none for an assembly error (R53, R54). R53 gives `.cw` only the form 0x with
17 hex digits; that it takes any literal from 0 to below 2^68 is DESIGN CHOICE, log entry 11, and so is
that a literal too wide for `hinit`, `hpush` or `.cw` is an assembly error. -/
def assembleLine : AsmLine → Option (List CommandWord)
  | .empty => some []
  | .h2f v => (fieldOf 16 v).map fun i => [encode (.h2f i)]
  | .f2h v => (fieldOf 32 v).map fun x => [encode (.f2h x)]
  | .hinit v => (fieldOf 64 v).map fun n => [encode (.hinit n)]
  | .hpush v => (elementOf v).map fun k => [encode (.hpush k)]
  | .hash es => (elementsOf es).map fun xs => (hashCommands xs).map encode
  | .cw v => (fieldOf 68 v).map fun w => [w]

/-- The value of a digit character, in any base up to 16. -/
def digitValue (c : Char) : Option Nat :=
  if '0' ≤ c ∧ c ≤ '9' then some (c.toNat - 48)
  else if 'a' ≤ c ∧ c ≤ 'f' then some (c.toNat - 87)
  else if 'A' ≤ c ∧ c ≤ 'F' then some (c.toNat - 55)
  else none

/-- Digits in base `b` after the value `acc`. An underscore inside a literal is a separator and means nothing
(00_scope.md R9); that leading and trailing ones are skipped too, that decimal literals may have them, and
that upper-case digits are read, is DESIGN CHOICE, log entry 11. -/
def digits (b : Nat) (acc : Nat) : List Char → Option Nat
  | [] => some acc
  | '_' :: cs => digits b acc cs
  | c :: cs =>
    match digitValue c with
    | some d => if d < b then digits b (acc * b + d) cs else none
    | none => none

/-- A number with at least one character after its base mark. That underscores alone (`_`, `0x_`, `-_`) read as 0,
where R9 and R53 say nothing of a literal with no digit, is DESIGN CHOICE, log entry 11. -/
def number (b : Nat) (cs : List Char) : Option Nat :=
  match cs with
  | [] => none
  | _ :: _ => digits b 0 cs

/-- A hexadecimal or decimal literal (R53). The minus sign of a negative decimal element is read here for every
command, and the ranges of `assembleLine` refuse a value below zero elsewhere; so a minus sign on zero (`h2f
-0`, `f2h -0`, `hinit -0`, `.cw -0`), where R53 says nothing, reads as 0 and is accepted: DESIGN CHOICE, log
entry 11. -/
def literal (cs : List Char) : Option Int :=
  match cs with
  | '0' :: 'x' :: ds => (number 16 ds).map Int.ofNat
  | '-' :: ds => (number 10 ds).map fun n => -Int.ofNat n
  | ds => (number 10 ds).map Int.ofNat

/-- A token that has ended, if it holds anything. -/
def endToken (cur : List Char) : List (List Char) :=
  match cur with
  | [] => []
  | _ :: _ => [cur]

/-- The tokens of a line: words, and each parenthesis or comma by itself; `;` starts a comment (R53). That blanks
are spaces and tabs, and may stand around parentheses and commas, is DESIGN CHOICE, log entry 11. -/
def tokens (cur : List Char) : List Char → List (List Char)
  | [] => endToken cur
  | c :: cs =>
    if c = ';' then endToken cur
    else if c = ' ' ∨ c = '\t' then endToken cur ++ tokens [] cs
    else if c = '(' ∨ c = ')' ∨ c = ',' then endToken cur ++ ([c] :: tokens [] cs)
    else tokens (cur ++ [c]) cs

/-- The operands of `hash(` after the first one has begun. -/
def hashOperands : List (List Char) → Option (List Int)
  | [v, [')']] => (literal v).map fun e => [e]
  | v :: [','] :: more =>
    match literal v, hashOperands more with
    | some e, some es => some (e :: es)
    | _, _ => none
  | _ => none

/-- One line of text (R53, R54). `none` is an assembly error. That a line without tokens gives no command and is
no error is DESIGN CHOICE, log entry 11. -/
def parseLine (cs : List Char) : Option AsmLine :=
  match tokens [] cs with
  | [] => some .empty
  | [['h', '2', 'f'], v] => (literal v).map .h2f
  | [['f', '2', 'h'], v] => (literal v).map .f2h
  | [['h', 'i', 'n', 'i', 't'], v] => (literal v).map .hinit
  | [['h', 'p', 'u', 's', 'h'], v] => (literal v).map .hpush
  | [['.', 'c', 'w'], v] => (literal v).map .cw
  | [['f', 'l', 'o', 'a', 't', 'F', 'r', 'o', 'm', 'H', 'a', 'l', 'f'], v] => (literal v).map .h2f
  | [['h', 'a', 'l', 'f', 'F', 'r', 'o', 'm', 'F', 'l', 'o', 'a', 't'], v] => (literal v).map .f2h
  | [['h', 'a', 's', 'h'], ['('], [')']] => some (.hash [])
  | ['h', 'a', 's', 'h'] :: ['('] :: more => (hashOperands more).map .hash
  | _ => none

/-- The command words of a line of text. -/
def assemble (cs : List Char) : Option (List CommandWord) :=
  match parseLine cs with
  | some l => assembleLine l
  | none => none

/-- One hexadecimal digit, in lower case as the spec writes them. -/
def hexDigit (d : Nat) : Char :=
  if d < 10 then Char.ofNat (48 + d) else Char.ofNat (87 + d)

/-- The `k` lowest hexadecimal digits of `n`, the most significant first. -/
def hexDigits (k n : Nat) : List Char :=
  match k with
  | 0 => []
  | k + 1 => hexDigits k (n / 16) ++ [hexDigit (n % 16)]

/-- A command word in writing: 17 digits with an underscore after the first (R45). -/
def spellCommand (w : CommandWord) : List Char :=
  ['0', 'x'] ++ hexDigits 1 (opField w).toNat ++ ['_'] ++ hexDigits 16 (dataField w).toNat

/-- A response in writing: ACK, DATA 0x... or ERR n (R46), the datum with all its 16 digits. -/
def spellResponse (r : Response) : List Char :=
  match r.rtype with
  | .ack => ['A', 'C', 'K']
  | .data => ['D', 'A', 'T', 'A', ' ', '0', 'x'] ++ hexDigits 16 r.rdata.toNat
  | .err => ['E', 'R', 'R', ' '] ++ hexDigits 1 r.rdata.toNat

end Sys2Proof.Machine
end

