-- ==== Sys2Proof/Machine/Numeric.lean ====
section
/-! DEFINITION. What the patterns of 40_half_codec.md R56 and R57 stand for: their classes, and the numeric
magnitudes of R58 as exact natural numbers. No rule of the block computes with these values (R58);
statements use them to say what the bit rules achieve (R67, R75). The formulas of R58 are the
spec's own general knowledge (G1). -/

namespace Sys2Proof.Machine

/-- The half's sign, bit 15 (R56). -/
def halfSign (h : Half) : Bool := h.getLsbD 15

/-- The half's biased exponent field as a number, bits 14 to 10 (R56). -/
def halfExp (h : Half) : Nat := (h.extractLsb' 10 5).toNat

/-- The half's significand field as a number, bits 9 to 0 (R56). -/
def halfSig (h : Half) : Nat := (h.extractLsb' 0 10).toNat

/-- A half NaN (R56). -/
def halfIsNan (h : Half) : Bool := halfExp h == 31 && halfSig h != 0

/-- A half infinity (R56). -/
def halfIsInf (h : Half) : Bool := halfExp h == 31 && halfSig h == 0

/-- A half that is neither an infinity nor a NaN (R56). -/
def halfIsFinite (h : Half) : Bool := halfExp h != 31

/-- The magnitude of a half in units of 2^-24 (R58). For the infinity pattern the formula gives 2^40,
that is 65536, the value R67 adds to the list of half-representable magnitudes. -/
def halfUnits (h : Half) : Nat :=
  if halfExp h = 0 then halfSig h else (1024 + halfSig h) * 2 ^ (halfExp h - 1)

/-- The single's sign, bit 31 (R57). -/
def singleSign (x : Single) : Bool := x.getLsbD 31

/-- The single's biased exponent field as a number, bits 30 to 23 (R57). -/
def singleExp (x : Single) : Nat := (x.extractLsb' 23 8).toNat

/-- The single's significand field as a number, bits 22 to 0 (R57). -/
def singleSig (x : Single) : Nat := (x.extractLsb' 0 23).toNat

/-- A single NaN (R57). -/
def singleIsNan (x : Single) : Bool := singleExp x == 255 && singleSig x != 0

/-- A single infinity (R57). -/
def singleIsInf (x : Single) : Bool := singleExp x == 255 && singleSig x == 0

/-- A single that is neither an infinity nor a NaN (R57). -/
def singleIsFinite (x : Single) : Bool := singleExp x != 255

/-- The magnitude of a finite single in units of 2^-149 (R58). -/
def singleUnits (x : Single) : Nat :=
  if singleExp x = 0 then singleSig x else (2 ^ 23 + singleSig x) * 2 ^ (singleExp x - 1)

/-- A half's magnitude in the single's units: 2^-24 is 2^125 units of 2^-149. -/
def halfInSingleUnits (h : Half) : Nat := halfUnits h * 2 ^ 125

/-- The distance of two magnitudes. -/
def distance (a b : Nat) : Nat := (a - b) + (b - a)

end Sys2Proof.Machine
end

