-- ==== Sys2Proof/Safety.lean ====
section
/-! DEFINITION. The terms in which claims about runs are made: the invariants of 10_state.md R24, the states
that no host can tell apart (R23), and command streams with their hash commands (41_hash64.md R94). -/

namespace Sys2Proof.Machine

/-- R24 (a) to (d): while ACT = 1, CNT is not zero, 1 <= REM <= CNT, and PH is 1 exactly when an odd number
of elements has been pushed; while ACT = 0, PH = 0. -/
def Counters64 (s : State) : Prop :=
  (s.act = true → s.cnt ≠ 0 ∧ 1 ≤ s.rem.toNat ∧ s.rem.toNat ≤ s.cnt.toNat ∧
    (s.ph = true ↔ (s.cnt.toNat - s.rem.toNat) % 2 = 1)) ∧
  (s.act = false → s.ph = false)

/-- R24 (c), (e), (f): `xs` are the elements pushed so far, H1 and H2 are the accumulators after the rounds
of its whole pairs, and a held KH is its last element. -/
def Pushed64 (s : State) (xs : List Word64) : Prop :=
  xs.length = s.cnt.toNat - s.rem.toNat ∧
  (s.h1, s.h2) = pairRounds s.cfg.cH2B (init64 s.cnt) xs ∧
  (s.ph = true → xs.getLast? = some s.kh)

/-- The invariant of a 64-bit build (R24). -/
def Inv64 (s : State) : Prop := Counters64 s ∧ (s.act = true → ∃ xs, Pushed64 s xs)

/-- What R24 says, for the registers a 32-bit build has: read from 42_hash32_variant.md R105 and R106. -/
def Counters32 (s : State) : Prop :=
  s.act = true → s.cnt_32 ≠ 0 ∧ 1 ≤ s.rem_32.toNat ∧ s.rem_32.toNat ≤ s.cnt_32.toNat

/-- `xs` are the elements pushed so far and H1 is the accumulator after one round for each. -/
def Pushed32 (s : State) (xs : List Word32) : Prop :=
  xs.length = s.cnt_32.toNat - s.rem_32.toNat ∧ s.h1_32 = xs.foldl round32 (init32 s.cnt_32)

/-- The invariant of a 32-bit build. -/
def Inv32 (s : State) : Prop := Counters32 s ∧ (s.act = true → ∃ xs, Pushed32 s xs)

/-- The invariant of the build that the state is of. -/
def UnitInv (s : State) : Prop :=
  match s.cfg.hashWidth with
  | .w64 => Inv64 s
  | .w32 => Inv32 s

/-- The registers of unit MH3 that matter agree (10_state.md R23): ACT, and while it is 1 those of the
build, KH only while it is held. -/
def SameUnit (s t : State) : Prop :=
  s.act = t.act ∧
  (s.act = true →
    match s.cfg.hashWidth with
    | .w64 => s.h1 = t.h1 ∧ s.h2 = t.h2 ∧ s.cnt = t.cnt ∧ s.rem = t.rem ∧ s.ph = t.ph ∧
        (s.ph = true → s.kh = t.kh)
    | .w32 => s.h1_32 = t.h1_32 ∧ s.cnt_32 = t.cnt_32 ∧ s.rem_32 = t.rem_32)

/-- The two states differ at most in registers whose contents are unspecified (R23, U7). -/
def Indistinguishable (s t : State) : Prop :=
  s.cfg = t.cfg ∧ s.input = t.input ∧ s.rsps = t.rsps ∧ s.free = t.free ∧ SameUnit s t

/-- No register and nothing else differs but the pending actions, the responses and the count of free
values drawn: what a command that touches no register leaves (10_state.md R27; 60_exceptions.md R113). -/
def SameRegisters (s t : State) : Prop :=
  t.cfg = s.cfg ∧ t.act = s.act ∧ t.h1 = s.h1 ∧ t.h2 = s.h2 ∧ t.cnt = s.cnt ∧ t.rem = s.rem ∧
  t.kh = s.kh ∧ t.ph = s.ph ∧ t.h1_32 = s.h1_32 ∧ t.cnt_32 = s.cnt_32 ∧ t.rem_32 = s.rem_32

/-- The registers that only a 32-bit build has are the same in both states. -/
def SameRegisters32 (s t : State) : Prop :=
  t.h1_32 = s.h1_32 ∧ t.cnt_32 = s.cnt_32 ∧ t.rem_32 = s.rem_32

/-- The registers that only a 64-bit build has are the same in both states. -/
def SameRegisters64 (s t : State) : Prop :=
  t.h1 = s.h1 ∧ t.h2 = s.h2 ∧ t.cnt = s.cnt ∧ t.rem = s.rem ∧ t.kh = s.kh ∧ t.ph = s.ph

/-- A word with the opcode of HINIT or HPUSH (30_encoding.md R47). -/
def isHashWord (w : CommandWord) : Bool := opField w == 0x4#4 || opField w == 0x5#4

/-- The command words of `hash(x0, ..., x(n-1))` in a 64-bit build (30_encoding.md R54 c). -/
def hashStream64 (xs : List Word64) : List CommandWord := (hashCommands xs).map encode

/-- The same stream in a 32-bit build (42_hash32_variant.md R107). -/
def hashStream32 (xs : List Word32) : List CommandWord :=
  encode (.hinit32 (BitVec.ofNat 32 xs.length)) :: xs.map fun x => encode (.hpush32 x)

/-- Of the responses `rs` to the words `ws`, position by position, those to the hash commands (20_memory.md R40). -/
def hashResponses : List CommandWord → List Response → List Response
  | w :: ws, r :: rs => if isHashWord w then r :: hashResponses ws rs else hashResponses ws rs
  | _, _ => []

/-- `n` times ACK, then DATA with the hash: what a whole sequence is answered (41_hash64.md R94). -/
def hashAnswers (n : Nat) (v : Word64) : List Response :=
  List.replicate n { rtype := .ack, rdata := 0 } ++ [{ rtype := .data, rdata := v }]

/-- The words `ws` are the host's next actions and no reset follows the last of them directly. -/
def Offers (s : State) (ws : List CommandWord) (rest : List HostAction) : Prop :=
  s.input = ws.map HostAction.command ++ rest ∧ resetFollows rest = false

/-- The 64-bit unit has gone idle from `s` with the response `r` (10_state.md R23; 41_hash64.md R92, R93): ACT
and PH are 0, the registers of the other build and everything the host has still to send are as
before. H1, H2, CNT, REM and KH are unspecified and not mentioned. -/
def WentIdle64 (s t : State) (r : Response) : Prop :=
  t.act = false ∧ t.ph = false ∧ t.rsps = s.rsps ++ [r] ∧ t.cfg = s.cfg ∧ t.input = s.input ∧
  SameRegisters32 s t

/-- The 32-bit unit has gone idle from `s` with the response `r` (42_hash32_variant.md R105, R106). -/
def WentIdle32 (s t : State) (r : Response) : Prop :=
  t.act = false ∧ t.rsps = s.rsps ++ [r] ∧ t.cfg = s.cfg ∧ t.input = s.input ∧ SameRegisters64 s t

end Sys2Proof.Machine
end

