-- ==== Sys2Proof/Certificates/Slice0/Obligations.lean ====
section
/-! DEFINITION. The statements about the model, from the numbered rules of spec/. Formulas and constants are
written out from the rules, not taken from the meanings, wherever a rule gives them. -/

open Sys2Proof Sys2Proof.Machine

/-! ## Encoding -/

/-- Decoding an encoded command of the build gives it back, at every operand (30_encoding.md R45, R47, R48). -/
def Obligations.DecodeInvertsEncode : Prop :=
  ∀ (hw : HashWidth) (i : Instr), i.wellFormed hw = true → decode hw (encode i) = .instr i

/-- A word decodes to a command exactly when the build has it and the word agrees with the command's encoding
on `op` and the operand bits; all other bits are ignored (30_encoding.md R52 from R45, R47, R48). -/
def Obligations.DecodeExactlyByUsedBits : Prop :=
  ∀ (hw : HashWidth) (w : CommandWord) (i : Instr),
    decode hw w = .instr i ↔ (i.wellFormed hw = true ∧ w &&& i.usedBits = encode i)

/-- The reserved words are those with `op` 0x0, 0x3, 0x6 to 0xF and no others (30_encoding.md R50, R52). -/
def Obligations.ReservedOpcodesExactly : Prop :=
  ∀ (hw : HashWidth) (w : CommandWord) (op : BitVec 4),
    decode hw w = .reserved op ↔
      (opField w = op ∧ (op = 0x0#4 ∨ op = 0x3#4 ∨ 0x6#4 ≤ op))

/-- The operand of each opcode, at its width, the data bits above it ignored (30_encoding.md R48). -/
def Obligations.OperandExtraction : Prop :=
  ∀ (hw : HashWidth) (data : Word64),
    decode hw ((0x1#4 ++ data : BitVec 68)) = .instr (.h2f (data.setWidth 16)) ∧
    decode hw ((0x2#4 ++ data : BitVec 68)) = .instr (.f2h (data.setWidth 32)) ∧
    decode .w64 ((0x4#4 ++ data : BitVec 68)) = .instr (.hinit data) ∧
    decode .w64 ((0x5#4 ++ data : BitVec 68)) = .instr (.hpush data)

/-- The worked encodings of 30_encoding.md R55: the words decode to their commands, and responses spell their
words. -/
def Obligations.WorkedEncodings : Prop :=
  decode .w64 0x10000000000003c00#68 = .instr (.h2f 0x3c00#16) ∧
  decode .w64 0x2000000003f800000#68 = .instr (.f2h 0x3f800000#32) ∧
  decode .w64 0x40000000000000003#68 = .instr (.hinit 3#64) ∧
  decode .w64 0x50000000000000002#68 = .instr (.hpush 2#64) ∧
  decode .w64 0x5ffffffffffffffff#68 = .instr (.hpush (-1#64)) ∧
  Response.word { rtype := .ack, rdata := 0 } = 0x00000000000000000#66 ∧
  Response.word { rtype := .data, rdata := 0x3f800000#64 } = 0x1000000003f800000#66 ∧
  Response.word { rtype := .err, rdata := 2 } = 0x20000000000000002#66

/-- The response format (30_encoding.md R46): the type in bits 65:64, never 3, the datum in bits 63:0; and of
every response a step adds, an ACK carries 0 and an ERR carries code 1 or 2 (60_exceptions.md R110). -/
def Obligations.ResponseFormat : Prop :=
  (∀ r : Response,
    r.word.extractLsb' 64 2 = (match r.rtype with | .ack => 0#2 | .data => 1#2 | .err => 2#2) ∧
    r.word.extractLsb' 64 2 ≠ 3#2 ∧ r.word.extractLsb' 0 64 = r.rdata) ∧
  (∀ (s t : State) (r : Response), step s = .next t → t.rsps = s.rsps ++ [r] →
    (r.rtype = .ack → r.rdata = 0) ∧ (r.rtype = .err → r.rdata = 1 ∨ r.rdata = 2))

/-- `hash(e0, ..., e(n-1))` assembles to hinit n and then one hpush for each element in order, for elements
written unsigned or as signed numbers (30_encoding.md section 5). -/
def Obligations.AssembledHashStream : Prop :=
  ∀ xs : List Word64,
    assembleLine (.hash (xs.map fun x => (x.toNat : Int))) = some (hashStream64 xs) ∧
    assembleLine (.hash (xs.map BitVec.toInt)) = some (hashStream64 xs) ∧
    (hashStream64 xs).length = xs.length + 1

/-! ## H2F -/

/-- ZERO case (40_half_codec.md R71): the datum is the sign alone. -/
def Obligations.H2fZeroGivesSignedZero : Prop :=
  ∀ (i : Half) (s : State), i &&& 0x7c00#16 = 0#16 → i &&& 0x03ff#16 = 0#16 →
    exec (.h2f i) s = .next { s with rsps := s.rsps ++
      [{ rtype := .data, rdata := if i &&& 0x8000#16 = 0#16 then 0x00000000#64 else 0x80000000#64 }] }

/-- SUBNORMAL case (40_half_codec.md R72): n = 10 - L shifts, L the index of the highest set bit, bring bit 10
up for the first time; the exponent field is 113 - n = 103 + L. -/
def Obligations.H2fSubnormalNormalised : Prop :=
  ∀ (i : Half) (s : State), i &&& 0x7c00#16 = 0#16 → i &&& 0x03ff#16 ≠ 0#16 →
    let m : Single := (i &&& 0x03ff#16).setWidth 32
    let n : Nat := 10 - Nat.log2 m.toNat
    1 ≤ n ∧ n ≤ 10 ∧ 113 - n = 103 + Nat.log2 m.toNat ∧
    (∀ k, k < n → (m <<< k) &&& 0x400#32 = 0#32) ∧ (m <<< n) &&& 0x400#32 ≠ 0#32 ∧
    exec (.h2f i) s = .next { s with rsps := s.rsps ++
      [{ rtype := .data
         rdata := ((((i &&& 0x8000#16).setWidth 32 : Single) <<< 16) |||
           (BitVec.ofNat 32 (113 - n) <<< 23) |||
           (((m <<< n) &&& 0x3ff#32) <<< 13)).setWidth 64 }] }

/-- INF_OR_NAN case (40_half_codec.md R73), and a half NaN never becomes an infinity. -/
def Obligations.H2fInfinityAndNan : Prop :=
  ∀ (i : Half) (s : State), i &&& 0x7c00#16 = 0x7c00#16 →
    let y : Single := (((i &&& 0x8000#16).setWidth 32 : Single) <<< 16) ||| 0x7f800000#32 |||
      (((i &&& 0x03ff#16).setWidth 32 : Single) <<< 13)
    exec (.h2f i) s = .next { s with rsps := s.rsps ++ [{ rtype := .data, rdata := y.setWidth 64 }] } ∧
    (i &&& 0x03ff#16 = 0#16 → singleIsInf y = true) ∧ (i &&& 0x03ff#16 ≠ 0#16 → singleIsNan y = true)

/-- NORMAL case (40_half_codec.md R74): the added constant re-biases the exponent, and the shifted sum never
reaches bit 31. -/
def Obligations.H2fNormalRebiased : Prop :=
  ∀ (i : Half) (s : State), i &&& 0x7c00#16 ≠ 0#16 → i &&& 0x7c00#16 ≠ 0x7c00#16 →
    let y : Single := ((i &&& 0x7fff#16).setWidth 32 + 0x1c000#32) <<< 13
    y ≤ 0x477fe000#32 ∧
    exec (.h2f i) s = .next { s with rsps := s.rsps ++
      [{ rtype := .data
         rdata := ((((i &&& 0x8000#16).setWidth 32 : Single) <<< 16) ||| y).setWidth 64 }] }

/-- Exactness (40_half_codec.md section 3, the sentence marked derived there): the single has the half's sign
and exactly its value, infinities stay infinities and NaNs stay NaNs. -/
def Obligations.H2fIsExact : Prop :=
  ∀ (i : Half) (s : State), ∃ y : Single,
    exec (.h2f i) s = .next { s with rsps := s.rsps ++ [{ rtype := .data, rdata := y.setWidth 64 }] } ∧
    singleSign y = halfSign i ∧
    (halfIsFinite i = true → singleIsFinite y = true ∧ singleUnits y = halfInSingleUnits i) ∧
    (halfIsInf i = true → singleIsInf y = true) ∧
    (halfIsNan i = true → singleIsNan y = true)

/-- Distinct halfs give distinct singles (40_half_codec.md section 3, the sentence marked derived there). -/
def Obligations.H2fIsInjective : Prop :=
  ∀ (i j : Half) (s : State), exec (.h2f i) s = exec (.h2f j) s → i = j

/-! ## F2H -/

/-- ZERO case (40_half_codec.md R62): below exponent field 102 the answer is a signed zero, whatever the
significand. -/
def Obligations.F2hFlushesToSignedZero : Prop :=
  ∀ (x : Single) (s : State), x &&& 0x7f800000#32 < 0x33000000#32 →
    exec (.f2h x) s = .next { s with rsps := s.rsps ++
      [{ rtype := .data, rdata := if x &&& 0x80000000#32 = 0#32 then 0x0000#64 else 0x8000#64 }] }

/-- SUBNORMAL case (40_half_codec.md R63), with its corner cases: the rounded significand is 1 to 0x400, and
exponent field 102 always gives 1. -/
def Obligations.F2hSubnormalRounded : Prop :=
  ∀ (x : Single) (s : State),
    0x33000000#32 ≤ x &&& 0x7f800000#32 → x &&& 0x7f800000#32 ≤ 0x38000000#32 →
    let t : Single := (x &&& 0x7f800000#32) >>> 23
    let m3 : Single := ((((x &&& 0x007fffff#32) ||| 0x00800000#32) >>> (113 - t.toNat)) + 0x1000#32) >>> 13
    102 ≤ t.toNat ∧ t.toNat ≤ 112 ∧ 1#32 ≤ m3 ∧ m3 ≤ 0x400#32 ∧ (t = 102#32 → m3 = 1#32) ∧
    exec (.f2h x) s = .next { s with rsps := s.rsps ++
      [{ rtype := .data, rdata := (((x >>> 16) &&& 0x8000#32) ||| m3).setWidth 64 }] }

/-- INFINITY case (40_half_codec.md R64): finite singles of magnitude 65536 or more, and infinities. -/
def Obligations.F2hOverflowsToInfinity : Prop :=
  ∀ (x : Single) (s : State), 0x47800000#32 ≤ x &&& 0x7f800000#32 →
    ¬ (x &&& 0x7f800000#32 = 0x7f800000#32 ∧ x &&& 0x007fffff#32 ≠ 0#32) →
    exec (.f2h x) s = .next { s with rsps := s.rsps ++
      [{ rtype := .data, rdata := (((x >>> 16) &&& 0x8000#32) ||| 0x7c00#32).setWidth 64 }] }

/-- NAN case (40_half_codec.md R65): the payload is truncated, forced to 1 where it would be 0, and the sign is
kept either way. -/
def Obligations.F2hNanPayload : Prop :=
  ∀ (x : Single) (s : State), x &&& 0x7f800000#32 = 0x7f800000#32 → x &&& 0x007fffff#32 ≠ 0#32 →
    let p : Single := (x &&& 0x007fffff#32) >>> 13
    exec (.f2h x) s = .next { s with rsps := s.rsps ++
      [{ rtype := .data
         rdata := (((x >>> 16) &&& 0x8000#32) |||
           (if p = 0#32 then 0x7c01#32 else 0x7c00#32 ||| p)).setWidth 64 }] }

/-- NORMAL case (40_half_codec.md R66): the terms are added, so a rounding carry runs into the exponent; the sum
without the sign stays at or below 0x7c00, so adding the sign and or-ing it agree; the carry at the top
exponent gives the infinity pattern (corner case b). -/
def Obligations.F2hNormalRounded : Prop :=
  ∀ (x : Single) (s : State),
    0x38000000#32 < x &&& 0x7f800000#32 → x &&& 0x7f800000#32 < 0x47800000#32 →
    let sum : Single := (((x &&& 0x7f800000#32) - 0x38000000#32) >>> 13) +
      (((x &&& 0x007fffff#32) + 0x1000#32) >>> 13)
    sum ≤ 0x7c00#32 ∧
    ((x >>> 16) &&& 0x8000#32) + sum = ((x >>> 16) &&& 0x8000#32) ||| sum ∧
    (0x477ff000#32 ≤ x → x ≤ 0x477fffff#32 → sum = 0x7c00#32) ∧
    (0x477fe001#32 ≤ x → x ≤ 0x477fefff#32 → sum = 0x7bff#32) ∧
    exec (.f2h x) s = .next { s with rsps := s.rsps ++
      [{ rtype := .data, rdata := (((x >>> 16) &&& 0x8000#32) + sum).setWidth 64 }] }

/-- Rounding (40_half_codec.md section 2, the sentence marked derived there): a finite single goes to the half
of the same sign whose magnitude is nearest, a tie to the larger magnitude, where 65536 counts as
representable and stands for infinity. -/
def Obligations.F2hNearestTiesAwayFromZero : Prop :=
  ∀ (x : Single) (s : State), singleIsFinite x = true → ∃ h : Half,
    exec (.f2h x) s = .next { s with rsps := s.rsps ++ [{ rtype := .data, rdata := h.setWidth 64 }] } ∧
    halfSign h = singleSign x ∧ halfIsNan h = false ∧
    ∀ g : Half, halfIsNan g = false →
      distance (singleUnits x) (halfInSingleUnits h) ≤ distance (singleUnits x) (halfInSingleUnits g) ∧
      (distance (singleUnits x) (halfInSingleUnits h) = distance (singleUnits x) (halfInSingleUnits g) →
        halfUnits g ≤ halfUnits h)

/-! ## Both directions -/

/-- `F2H` of the answer to `H2F h` answers h, for every one of the 65536 halfs (40_half_codec.md section 4, the
sentence marked derived there). -/
def Obligations.HalfRoundTrip : Prop :=
  ∀ (h : Half), ∃ y : Single, ∀ s t : State,
    exec (.h2f h) s = .next { s with rsps := s.rsps ++ [{ rtype := .data, rdata := y.setWidth 64 }] } ∧
    exec (.f2h y) t = .next { t with rsps := t.rsps ++ [{ rtype := .data, rdata := h.setWidth 64 }] }

/-- The signed zeros and infinities in both directions (40_half_codec.md R78). -/
def Obligations.SignedZerosAndInfinities : Prop :=
  ∀ s : State,
    exec (.f2h 0x80000000#32) s = .next { s with rsps := s.rsps ++ [{ rtype := .data, rdata := 0x8000#64 }] } ∧
    exec (.f2h 0x00000000#32) s = .next { s with rsps := s.rsps ++ [{ rtype := .data, rdata := 0x0000#64 }] } ∧
    exec (.h2f 0x8000#16) s = .next { s with rsps := s.rsps ++ [{ rtype := .data, rdata := 0x80000000#64 }] } ∧
    exec (.h2f 0x0000#16) s = .next { s with rsps := s.rsps ++ [{ rtype := .data, rdata := 0x00000000#64 }] } ∧
    exec (.f2h 0x7f800000#32) s = .next { s with rsps := s.rsps ++ [{ rtype := .data, rdata := 0x7c00#64 }] } ∧
    exec (.f2h 0xff800000#32) s = .next { s with rsps := s.rsps ++ [{ rtype := .data, rdata := 0xfc00#64 }] } ∧
    exec (.h2f 0x7c00#16) s = .next { s with rsps := s.rsps ++ [{ rtype := .data, rdata := 0x7f800000#64 }] } ∧
    exec (.h2f 0xfc00#16) s = .next { s with rsps := s.rsps ++ [{ rtype := .data, rdata := 0xff800000#64 }] }

/-- NaN-ness is preserved (40_half_codec.md R79). -/
def Obligations.NanStaysNan : Prop :=
  ∀ (x : Single) (s t : State), singleIsNan x = true → ∃ (h : Half) (y : Single),
    exec (.f2h x) s = .next { s with rsps := s.rsps ++ [{ rtype := .data, rdata := h.setWidth 64 }] } ∧
    h &&& 0x7c00#16 = 0x7c00#16 ∧ h &&& 0x03ff#16 ≠ 0#16 ∧
    exec (.h2f h) t = .next { t with rsps := t.rsps ++ [{ rtype := .data, rdata := y.setWidth 64 }] } ∧
    singleIsNan y = true

/-- Overflow (40_half_codec.md section 4; 90_conflicts.md C3): finite magnitudes of 65520 and above answer the
signed infinity, those strictly between 65504 and 65520 answer 65504. -/
def Obligations.OverflowBoundary : Prop :=
  ∀ (x : Single) (s : State), singleIsFinite x = true →
    (65520 * 2 ^ 149 ≤ singleUnits x →
      exec (.f2h x) s = .next { s with rsps := s.rsps ++
        [{ rtype := .data, rdata := if singleSign x then 0xfc00#64 else 0x7c00#64 }] }) ∧
    (65504 * 2 ^ 149 < singleUnits x → singleUnits x < 65520 * 2 ^ 149 →
      exec (.f2h x) s = .next { s with rsps := s.rsps ++
        [{ rtype := .data, rdata := if singleSign x then 0xfbff#64 else 0x7bff#64 }] })

/-! ## The hash functions -/

/-- The pure functions of the 64-bit path as their rules write them (41_hash64.md R82, R83, R84, R86, R87, R88,
R89), the dead last line of R89 apart. -/
def Obligations.Hash64Formulas : Prop :=
  (∀ k : Word64, fmix64 k =
    let a := k ^^^ (k >>> 33)
    let b := a * 0xff51afd7ed558ccd#64
    let d := b ^^^ (b >>> 33)
    let e := d * 0xc4ceb9fe1a85ec53#64
    e ^^^ (e >>> 33)) ∧
  (∀ k : Word64, premix1 k = (k * 0x87c37b91114253d5#64).rotateLeft 31 * 0x4cf5ad432745937f#64) ∧
  (∀ k : Word64, premix2 k = (k * 0x4cf5ad432745937f#64).rotateLeft 33 * 0x87c37b91114253d5#64) ∧
  (∀ h1 h2 k : Word64, lane1 h1 h2 k = ((h1 ^^^ premix1 k).rotateLeft 27 + h2) * 5#64 + 0x52dce729#64) ∧
  (∀ c h1 h2 k : Word64, lane2 c h1 h2 k = ((h2 ^^^ premix2 k).rotateLeft 31 + h1) * 5#64 + c) ∧
  (∀ n : Word64, init64 n = (0x87c37b91114253d5#64 ^^^ n, 0x4cf5ad432745937f#64 ^^^ n)) ∧
  (∀ h1 h2 n : Word64, fin64 h1 h2 n =
    let a := h1 ^^^ n
    let b := h2 ^^^ n
    let a' := a + b
    let b' := b + a'
    fmix64 a' + fmix64 b')

/-- The pure functions of the 32-bit path as their rules write them (42_hash32_variant.md R99 to R103). -/
def Obligations.Hash32Formulas : Prop :=
  (∀ h : Word32, fmix32 h =
    let a := h ^^^ (h >>> 16)
    let b := a * 0x85ebca6b#32
    let d := b ^^^ (b >>> 13)
    let e := d * 0xc2b2ae35#32
    e ^^^ (e >>> 16)) ∧
  (∀ k : Word32, premix32 k = (k * 0xcc9e2d51#32).rotateLeft 15 * 0x1b873593#32) ∧
  (∀ h k : Word32, round32 h k = (h ^^^ premix32 k).rotateLeft 13 * 5#32 + 0xe6546b64#32) ∧
  (∀ n : Word32, init32 n = 0xcc9e2d51#32 ^^^ n) ∧
  (∀ h n : Word32, fin32 h n = fmix32 (h ^^^ n))

/-- fmix64 is a bijection (41_hash64.md section 2, marked derived there). -/
def Obligations.Fmix64Bijective : Prop := Function.Bijective fmix64

/-- The 64-bit hash is the indexed loop over whole pairs of 41_hash64.md R90 (pairing by R85), for either value
of C_H2B. -/
def Obligations.Hash64IndexedLoop : Prop :=
  ∀ (c : Word64) (xs : List Word64),
    let n : Word64 := BitVec.ofNat 64 xs.length
    let h := (List.range (xs.length / 2)).foldl
      (fun (h : Word64 × Word64) j =>
        let a := lane1 h.1 h.2 (xs.getD (2 * j) 0)
        let b := lane2 c a h.2 (xs.getD (2 * j + 1) 0)
        (a, b)) (init64 n)
    seqHash64 c xs = fin64 h.1 h.2 n

/-- The 32-bit hash is the loop of 42_hash32_variant.md R104 over every element. -/
def Obligations.Hash32IndexedLoop : Prop :=
  ∀ xs : List Word32,
    let n : Word32 := BitVec.ofNat 32 xs.length
    seqHash32 xs = fin32 ((List.range xs.length).foldl (fun h i => round32 h (xs.getD i 0)) (init32 n)) n

/-- An unpaired last element is dropped (41_hash64.md R91): after an even number of elements it changes nothing
but the count. -/
def Obligations.OddElementDropped : Prop :=
  ∀ (c v w : Word64) (xs : List Word64), xs.length % 2 = 0 →
    seqHash64 c (xs ++ [v]) = seqHash64 c (xs ++ [w]) ∧
    (let n : Word64 := BitVec.ofNat 64 (xs.length + 1)
     let h := pairRounds c (init64 n) xs
     seqHash64 c (xs ++ [v]) = fin64 h.1 h.2 n)

/-- One element hashes like none, for every element (41_hash64.md section 4, marked derived there). -/
def Obligations.SingletonHashesAsEmpty : Prop :=
  ∀ c v : Word64, seqHash64 c [v] = seqHash64 c []

/-- Pinned values (41_hash64.md section 4 and 95_test_vectors.md sections 4 and 5, derived there): both values
of C_H2B, and the 32-bit path. -/
def Obligations.PinnedHashes : Prop :=
  seqHash64 0x38495ab5#64 [] = 0x68d1653a81dff25b#64 ∧
  seqHash64 0x38495ab5#64 [1, 2] = 0xc54ae0f00bbfd0ad#64 ∧
  seqHash64 0x03845ab5#64 [1, 2] = 0xac18a745af91f5fa#64 ∧
  seqHash64 0x38495ab5#64 [2, 1] = 0x1a4da2a0721b6bf2#64 ∧
  seqHash64 0x38495ab5#64 [1, 2, 3] = 0x171598da7c951917#64 ∧
  seqHash32 [1, 2, 3] = 0xe101d630#32

/-! ## HINIT and HPUSH -/

/-- HINIT (41_hash64.md R92) from every state, an open sequence abandoned: with a non-zero count it opens a
sequence and answers ACK; with count 0 it answers the hash of the empty sequence and leaves the unit
idle. -/
def Obligations.HinitOpensOrAnswersEmpty : Prop :=
  (∀ data : Word64, decode .w64 ((0x4#4 ++ data : BitVec 68)) = .instr (.hinit data)) ∧
  ∀ (n : Word64) (s : State),
    (n ≠ 0 → exec (.hinit n) s = .next { s with
      h1 := 0x87c37b91114253d5#64 ^^^ n, h2 := 0x4cf5ad432745937f#64 ^^^ n
      cnt := n, rem := n, ph := false, act := true
      rsps := s.rsps ++ [{ rtype := .ack, rdata := 0 }] }) ∧
    (n = 0 → ∃ t, exec (.hinit n) s = .next t ∧
      WentIdle64 s t { rtype := .data, rdata := fin64 0x87c37b91114253d5#64 0x4cf5ad432745937f#64 0 } ∧
      fin64 0x87c37b91114253d5#64 0x4cf5ad432745937f#64 0 = 0x68d1653a81dff25b#64)

/-- HPUSH (41_hash64.md R93), all five branches: idle; an even-index element that is last and dropped, or held;
an odd-index element that completes the last pair, or another pair. -/
def Obligations.HpushEveryBranch : Prop :=
  (∀ data : Word64, decode .w64 ((0x5#4 ++ data : BitVec 68)) = .instr (.hpush data)) ∧
  ∀ (k : Word64) (s : State),
    let a := lane1 s.h1 s.h2 s.kh
    let b := lane2 s.cfg.cH2B a s.h2 k
    (s.act = false →
      exec (.hpush k) s = .next { s with rsps := s.rsps ++ [{ rtype := .err, rdata := 2 }] }) ∧
    (s.act = true → s.ph = false → s.rem = 1 → ∃ t, exec (.hpush k) s = .next t ∧
      WentIdle64 s t { rtype := .data, rdata := fin64 s.h1 s.h2 s.cnt }) ∧
    (s.act = true → s.ph = false → s.rem ≠ 1 → exec (.hpush k) s = .next { s with
      kh := k, ph := true, rem := s.rem - 1, rsps := s.rsps ++ [{ rtype := .ack, rdata := 0 }] }) ∧
    (s.act = true → s.ph = true → s.rem = 1 → ∃ t, exec (.hpush k) s = .next t ∧
      WentIdle64 s t { rtype := .data, rdata := fin64 a b s.cnt }) ∧
    (s.act = true → s.ph = true → s.rem ≠ 1 → exec (.hpush k) s = .next { s with
      ph := false, h1 := a, h2 := b, rem := s.rem - 1
      rsps := s.rsps ++ [{ rtype := .ack, rdata := 0 }] })

/-- HINIT of a 32-bit build (42_hash32_variant.md R105). -/
def Obligations.Hinit32OpensOrAnswersEmpty : Prop :=
  (∀ data : Word64, decode .w32 ((0x4#4 ++ data : BitVec 68)) = .instr (.hinit32 (data.setWidth 32))) ∧
  ∀ (n : Word32) (s : State),
    (n ≠ 0 → exec (.hinit32 n) s = .next { s with
      h1_32 := 0xcc9e2d51#32 ^^^ n, cnt_32 := n, rem_32 := n, act := true
      rsps := s.rsps ++ [{ rtype := .ack, rdata := 0 }] }) ∧
    (n = 0 → ∃ t, exec (.hinit32 n) s = .next t ∧
      WentIdle32 s t { rtype := .data, rdata := (fin32 0xcc9e2d51#32 0).setWidth 64 } ∧
      (fin32 0xcc9e2d51#32 0).setWidth 64 = 0x67035893#64)

/-- HPUSH of a 32-bit build (42_hash32_variant.md R106), all three branches. -/
def Obligations.Hpush32EveryBranch : Prop :=
  (∀ data : Word64, decode .w32 ((0x5#4 ++ data : BitVec 68)) = .instr (.hpush32 (data.setWidth 32))) ∧
  ∀ (k : Word32) (s : State),
    let h := round32 s.h1_32 k
    (s.act = false →
      exec (.hpush32 k) s = .next { s with rsps := s.rsps ++ [{ rtype := .err, rdata := 2 }] }) ∧
    (s.act = true → s.rem_32 = 1 → ∃ t, exec (.hpush32 k) s = .next t ∧
      WentIdle32 s t { rtype := .data, rdata := (fin32 h s.cnt_32).setWidth 64 }) ∧
    (s.act = true → s.rem_32 ≠ 1 → exec (.hpush32 k) s = .next { s with
      h1_32 := h, rem_32 := s.rem_32 - 1, rsps := s.rsps ++ [{ rtype := .ack, rdata := 0 }] })

/-- A whole stream (41_hash64.md section 4, marked derived there): from any state of a 64-bit build, hinit n and
the n pushes, with converter commands and reserved words interleaved anywhere and no reset, are answered
n times ACK and then DATA with the hash of the sequence, and leave the unit idle. -/
def Obligations.HashStreamAnswersHash64 : Prop :=
  ∀ (s : State) (xs : List Word64) (ws : List CommandWord) (rest : List HostAction),
    s.cfg.hashWidth = .w64 → xs.length < 2 ^ 64 → ws.filter isHashWord = hashStream64 xs →
    Offers s ws rest →
    ∃ (t : State) (rs : List Response), Host.Core.run Sys2Proof.core ws.length s = .next t ∧
      t.act = false ∧ t.input = rest ∧ t.rsps = s.rsps ++ rs ∧ rs.length = ws.length ∧
      hashResponses ws rs = hashAnswers xs.length (seqHash64 s.cfg.cH2B xs)

/-- The same in a 32-bit build, with the 32-bit hash (42_hash32_variant.md section 2, marked derived there). -/
def Obligations.HashStreamAnswersHash32 : Prop :=
  ∀ (s : State) (xs : List Word32) (ws : List CommandWord) (rest : List HostAction),
    s.cfg.hashWidth = .w32 → xs.length < 2 ^ 32 → ws.filter isHashWord = hashStream32 xs →
    Offers s ws rest →
    ∃ (t : State) (rs : List Response), Host.Core.run Sys2Proof.core ws.length s = .next t ∧
      t.act = false ∧ t.input = rest ∧ t.rsps = s.rsps ++ rs ∧ rs.length = ws.length ∧
      hashResponses ws rs = hashAnswers xs.length ((seqHash32 xs).setWidth 64)

/-! ## The machine -/

/-- When the next action is a word that decodes to a command and no reset follows it, a step is that command's
meaning on the state with the word taken off the port (20_memory.md R39). -/
def Obligations.StepRunsDecodedCommand : Prop :=
  ∀ (s : State) (w : CommandWord) (rest : List HostAction) (i : Instr),
    s.input = .command w :: rest → resetFollows rest = false → decode s.cfg.hashWidth w = .instr i →
    step s = exec i { s with input := rest }

/-- A word placed by withFetchWord is the one the next step runs (the model's interface, log entry 6). -/
def Obligations.FetchWordIsRunNext : Prop :=
  ∀ (s : State) (w : Nat) (i : Instr), w < 2 ^ 68 →
    decode s.cfg.hashWidth (BitVec.ofNat 68 w) = .instr i →
    step (s.withFetchWord 72 w) = exec i { s with input := withoutLeadingResets s.input }

/-- A reserved opcode is answered ERR 1 and changes no state; its data is ignored (30_encoding.md R50). -/
def Obligations.ReservedOpcodeAnswersError : Prop :=
  ∀ (s : State) (w : CommandWord) (rest : List HostAction),
    s.input = .command w :: rest → resetFollows rest = false →
    (opField w = 0x0#4 ∨ opField w = 0x3#4 ∨ 0x6#4 ≤ opField w) →
    step s = .next { s with input := rest, rsps := s.rsps ++ [{ rtype := .err, rdata := 1 }] }

/-- Errors (60_exceptions.md R110): an ERR has code 1, for a reserved word, or code 2, for an HPUSH while ACT =
0, and it changes no register; so no H2F, F2H or HINIT is answered ERR. -/
def Obligations.ErrorsOnlyTwoAndHarmless : Prop :=
  ∀ (s t : State) (v : Word64), step s = .next t → t.rsps = s.rsps ++ [{ rtype := .err, rdata := v }] →
    SameRegisters s t ∧ ∃ w, s.input = .command w :: t.input ∧
      ((v = 1 ∧ (opField w = 0x0#4 ∨ opField w = 0x3#4 ∨ 0x6#4 ≤ opField w)) ∨
       (v = 2 ∧ opField w = 0x5#4 ∧ s.act = false))

/-- Every accepted command that no reset follows produces exactly one response, after all earlier ones; a reset
and an empty port produce none (20_memory.md R40). -/
def Obligations.OneResponsePerCommand : Prop :=
  (∀ (s : State) (w : CommandWord) (rest : List HostAction),
    s.input = .command w :: rest → resetFollows rest = false →
    ∃ (t : State) (r : Response), step s = .next t ∧ t.input = rest ∧ t.rsps = s.rsps ++ [r]) ∧
  (∀ s : State, (∀ w rest, s.input ≠ HostAction.command w :: rest) →
    ∃ t, step s = .next t ∧ t.rsps = s.rsps)

/-- The block raises no exception and has no fault state (60_exceptions.md R109): from every state a step goes on
to a next state, and so does every command. -/
def Obligations.NothingEverStops : Prop :=
  (∀ s : State, ∃ t, step s = .next t) ∧ (∀ (i : Instr) (s : State), ∃ t, exec i s = .next t)

/-- Progress (70_reset_and_hazards.md R125): a finite stream of commands is answered completely, one response
each, in as many steps as it has commands. -/
def Obligations.EveryStreamIsAnswered : Prop :=
  ∀ (s : State) (ws : List CommandWord), s.input = ws.map HostAction.command →
    ∃ (t : State) (rs : List Response), Host.Core.run Sys2Proof.core ws.length s = .next t ∧
      t.input = [] ∧ t.rsps = s.rsps ++ rs ∧ rs.length = ws.length

/-- The codec is stateless (10_state.md R27): a conversion answers the same datum in every state and changes
nothing but the responses. -/
def Obligations.ConvertersAreStateless : Prop :=
  (∀ i : Half, ∃ v : Word64, ∀ s : State,
    exec (.h2f i) s = .next { s with rsps := s.rsps ++ [{ rtype := .data, rdata := v }] }) ∧
  (∀ x : Single, ∃ v : Word64, ∀ s : State,
    exec (.f2h x) s = .next { s with rsps := s.rsps ++ [{ rtype := .data, rdata := v }] })

/-- Reset (70_reset_and_hazards.md R119): ACT is 0 after it, PH too in the build that has it, reset itself
produces no response, and the host's other actions are still to come. -/
def Obligations.ResetMakesIdle : Prop :=
  ∀ (s : State) (rest : List HostAction), s.input = .reset :: rest →
    ∃ t, step s = .next t ∧ t.input = rest ∧ t.rsps = s.rsps ∧ t.cfg = s.cfg ∧ t.act = false ∧
      (s.cfg.hashWidth = .w64 → t.ph = false)

/-- After a reset nothing is left of an open sequence (70_reset_and_hazards.md section 1): two states that differ
only in the registers of unit MH3 are indistinguishable after it, so by IdleRegistersUnobservable no later
response tells what was open or pushed. That both have drawn equally many free values is about the model's own
counter (log entry 4). -/
def Obligations.ResetForgetsOpenSequence : Prop :=
  ∀ (s u : State) (rest : List HostAction), s.input = .reset :: rest →
    u.cfg = s.cfg → u.input = s.input → u.rsps = s.rsps → u.free = s.free →
    ∃ t v, step s = .next t ∧ step u = .next v ∧ Indistinguishable t v

/-- A command that a reset directly follows (70_reset_and_hazards.md R120) is either answered as it would be
without the reset or dropped with no response; after the reset the unit is idle either way. -/
def Obligations.CommandBeforeReset : Prop :=
  ∀ (s : State) (w : CommandWord) (rest : List HostAction), s.input = .command w :: .reset :: rest →
    ∃ t u : State, step s = .next t ∧ step t = .next u ∧ u.act = false ∧ u.input = rest ∧
      (s.cfg.hashWidth = .w64 → u.ph = false) ∧
      (u.rsps = s.rsps ∨
        ∃ v, step { s with input := [.command w] } = .next v ∧ u.rsps = v.rsps)

/-- The reset state (10_state.md section 3): ACT = 0 and PH = 0; the build is HASH_WIDTH = 64 with C_H2B =
0x38495ab5 (00_scope.md section 4). Nothing is said of the registers reset leaves unspecified. -/
def Obligations.ResetState : Prop :=
  State.reset.act = false ∧ State.reset.ph = false ∧ State.reset.rsps = [] ∧ State.reset.input = [] ∧
  State.reset.cfg.hashWidth = .w64 ∧ State.reset.cfg.cH2B = 0x0000000038495ab5#64 ∧
  State.reset.cfg.legal = true

/-- The invariant holds after reset. -/
def Obligations.InvariantAtReset : Prop := UnitInv State.reset

/-- Every step keeps the invariant of 10_state.md section 1 (marked derived there): the counters and PH agree,
and H1, H2 and KH are those of the elements pushed so far. -/
def Obligations.InvariantKeptByStep : Prop :=
  ∀ s t : State, UnitInv s → step s = .next t → UnitInv t

/-- No step changes the build parameters (00_scope.md section 4). The second clause is the model's choice, log
entry 2 (DESIGN CHOICE): State holds the registers of both builds, where the spec says that those of the
other build do not exist; a step leaves them alone. -/
def Obligations.BuildIsFixed : Prop :=
  ∀ s t : State, step s = .next t → t.cfg = s.cfg ∧
    (s.cfg.hashWidth = .w64 → SameRegisters32 s t) ∧ (s.cfg.hashWidth = .w32 → SameRegisters64 s t)

/-- What idle registers hold cannot be observed (10_state.md section 1, marked derived there): states that differ
only there step to states that differ only there, with the same responses. -/
def Obligations.IdleRegistersUnobservable : Prop :=
  ∀ s t s' : State, Indistinguishable s t → step s = .next s' →
    ∃ t', step t = .next t' ∧ Indistinguishable s' t'

/-- The abstract view of 10_state.md section 1 is equivalent: HINIT and HPUSH on the registers are HINIT and
HPUSH on the view, with the same response. -/
def Obligations.AbstractViewAgrees : Prop :=
  ∀ (s : State) (n k : Word64),
    (∃ (t : State) (r : Response), exec (.hinit n) s = .next t ∧ t.rsps = s.rsps ++ [r] ∧
      mh3Hinit n = (mh3View t, r)) ∧
    (∃ (t : State) (r : Response), exec (.hpush k) s = .next t ∧ t.rsps = s.rsps ++ [r] ∧
      mh3Hpush s.cfg.cH2B k (mh3View s) = (mh3View t, r))
end

