-- ==== Sys2Proof/Laws/Functions.lean ====
section
/-! SUPPORT. The small lemmas of the pure functions: the hash's recursion over pairs, rotation, and which case of
a conversion applies. -/

namespace Sys2Proof.Machine

/-! ## Rotation -/

/-- The model's rotation is the library's, at every amount the hash uses (00_scope.md R13). -/
theorem rotl_eq_rotateLeft {n : Nat} (a : BitVec n) {r : Nat} (h : r < n) : rotl a r = a.rotateLeft r := by
  simp [rotl, BitVec.rotateLeft_def, Nat.mod_eq_of_lt h]

/-! ## Pairs -/

@[simp] theorem pairsOf_nil : pairsOf [] = [] := rfl

@[simp] theorem pairsOf_single (x : Word64) : pairsOf [x] = [] := rfl

@[simp] theorem pairsOf_pair (x y : Word64) (xs : List Word64) :
    pairsOf (x :: y :: xs) = (x, y) :: pairsOf xs := rfl

/-- The pairs of an even-length start and then those of the rest. -/
theorem pairsOf_append (xs ys : List Word64) (hx : xs.length % 2 = 0) :
    pairsOf (xs ++ ys) = pairsOf xs ++ pairsOf ys := by
  match xs, hx with
  | [], _ => rfl
  | [_], hx => simp at hx
  | x :: y :: zs, hx =>
    have hz : zs.length % 2 = 0 := by simp only [List.length_cons] at hx; omega
    simp [pairsOf_append zs ys hz]

/-- Rounds over an even-length start and then over the rest. -/
theorem pairRounds_append (c : Word64) (h : Word64 × Word64) (xs ys : List Word64)
    (hx : xs.length % 2 = 0) : pairRounds c h (xs ++ ys) = pairRounds c (pairRounds c h xs) ys := by
  simp only [pairRounds, pairsOf_append xs ys hx, List.foldl_append]

/-- After an even number of elements one more opens no round. -/
theorem pairRounds_append_single (c : Word64) (h : Word64 × Word64) (xs : List Word64) (x : Word64)
    (hx : xs.length % 2 = 0) : pairRounds c h (xs ++ [x]) = pairRounds c h xs := by
  rw [pairRounds_append c h xs [x] hx]
  simp only [pairRounds, pairsOf_single, List.foldl_nil]

/-- After an even number of elements two more add one round. -/
theorem pairRounds_append_pair (c : Word64) (h : Word64 × Word64) (xs : List Word64) (x y : Word64)
    (hx : xs.length % 2 = 0) :
    pairRounds c h (xs ++ [x, y]) = pairRound c (pairRounds c h xs) x y := by
  rw [pairRounds_append c h xs [x, y] hx]
  simp only [pairRounds, pairsOf_pair, pairsOf_nil, List.foldl_cons, List.foldl_nil]

/-! ## Case selection of the conversions -/

theorem h2f_zero {i : Half} (he : h2fExp i = 0#32) (hm : h2fSig i = 0#32) : h2f i = h2fZero i := by
  simp [h2f, he, hm]

theorem h2f_subnormal {i : Half} (he : h2fExp i = 0#32) (hm : h2fSig i ≠ 0#32) :
    h2f i = h2fSubnormal i := by
  simp [h2f, he, hm]

theorem h2f_infOrNan {i : Half} (he : h2fExp i = 0x7c00#32) : h2f i = h2fInfOrNan i := by
  simp [h2f, he]

theorem h2f_normal {i : Half} (h0 : h2fExp i ≠ 0#32) (h1 : h2fExp i ≠ 0x7c00#32) :
    h2f i = h2fNormal i := by
  simp [h2f, h0, h1]

theorem f2h_zero {x : Single} (h : f2hExp x < 0x33000000#32) : f2h x = f2hZero x := by
  have h' : f2hExp x ≤ 0x38000000#32 := by bv_omega
  simp only [f2h, h, h', if_true]

theorem f2h_subnormal {x : Single} (h0 : 0x33000000#32 ≤ f2hExp x) (h1 : f2hExp x ≤ 0x38000000#32) :
    f2h x = f2hSubnormal x := by
  have h' : ¬ f2hExp x < 0x33000000#32 := by bv_omega
  simp only [f2h, h1, h', if_true, if_false]

theorem f2h_normal {x : Single} (h0 : 0x38000000#32 < f2hExp x) (h1 : f2hExp x < 0x47800000#32) :
    f2h x = f2hNormal x := by
  have ha : ¬ f2hExp x ≤ 0x38000000#32 := by bv_omega
  have hb : ¬ 0x47800000#32 ≤ f2hExp x := by bv_omega
  simp only [f2h, ha, hb, if_false]

theorem f2h_nan {x : Single} (h0 : f2hExp x = 0x7f800000#32) (h1 : f2hSig x ≠ 0#32) :
    f2h x = f2hNan x := by
  simp [f2h, h0, h1]

theorem f2h_infinity {x : Single} (h0 : 0x47800000#32 ≤ f2hExp x)
    (h1 : ¬ (f2hExp x = 0x7f800000#32 ∧ f2hSig x ≠ 0#32)) : f2h x = f2hInfinity x := by
  have ha : ¬ f2hExp x ≤ 0x38000000#32 := by bv_omega
  simp only [f2h, ha, h0, h1, if_false, if_true]

end Sys2Proof.Machine
end

