-- ==== Sys2Proof/Laws/PerInstr.lean ====
section
/-! SUPPORT. Facts about every command as syntax, one lemma per constructor: the `op` field of its encoding is
its opcode, and that opcode is one the map defines (30_encoding.md R45, R47). -/

namespace Sys2Proof.Laws

/-- Bit by bit, a command word is `data` below bit 64 and `op` from there on (30_encoding.md R45). -/
theorem getLsbD_commandWord (op : BitVec 4) (data : Word64) (i : Nat) :
    (commandWord op data).getLsbD i = if i < 64 then data.getLsbD i else op.getLsbD (i - 64) :=
  BitVec.getLsbD_append

/-- The `op` field of a command word is its opcode. -/
theorem opField_commandWord (op : BitVec 4) (data : Word64) : opField (commandWord op data) = op := by
  ext i hi
  simp [opField, getLsbD_commandWord, hi]

/-- The `data` field of a command word is its operand. -/
theorem dataField_commandWord (op : BitVec 4) (data : Word64) : dataField (commandWord op data) = data := by
  ext i hi
  simp [dataField, getLsbD_commandWord, hi]

/-- The decoder gives only commands that the build has (30_encoding.md R47, R52). -/
theorem decode_wellFormed {hw : HashWidth} {w : CommandWord} {i : Instr} (h : decode hw w = .instr i) :
    i.wellFormed hw = true := by
  unfold decode at h
  repeat' split at h
  all_goals first
    | cases h; rfl
    | cases h

/-- The encoding carries the command's opcode and operand in the fields of R45. -/
def EncodedFields.Statement (i : Instr) : Prop :=
  opField (encode i) = i.opcode ∧ dataField (encode i) = i.data

theorem EncodedFields.h2f (h : Half) : EncodedFields.Statement (.h2f h) :=
  ⟨opField_commandWord _ _, dataField_commandWord _ _⟩

theorem EncodedFields.f2h (x : Single) : EncodedFields.Statement (.f2h x) :=
  ⟨opField_commandWord _ _, dataField_commandWord _ _⟩

theorem EncodedFields.hinit (n : Word64) : EncodedFields.Statement (.hinit n) :=
  ⟨opField_commandWord _ _, dataField_commandWord _ _⟩

theorem EncodedFields.hpush (k : Word64) : EncodedFields.Statement (.hpush k) :=
  ⟨opField_commandWord _ _, dataField_commandWord _ _⟩

theorem EncodedFields.hinit32 (n : Word32) : EncodedFields.Statement (.hinit32 n) :=
  ⟨opField_commandWord _ _, dataField_commandWord _ _⟩

theorem EncodedFields.hpush32 (k : Word32) : EncodedFields.Statement (.hpush32 k) :=
  ⟨opField_commandWord _ _, dataField_commandWord _ _⟩

end Sys2Proof.Laws
end

