-- ==== Sys2Proof/Laws/State.lean ====
section
/-! SUPPORT. One lemma per field per named update of State, each true by rfl, so that no proof unfolds a record
update. -/

namespace Sys2Proof.Machine

/-! ## The answers are responses -/

@[simp] theorem answerAck_eq (s : State) : answerAck s = respond .ack 0 s := rfl
@[simp] theorem answerErr_eq (code : Word64) (s : State) : answerErr code s = respond .err code s := rfl
@[simp] theorem answerReserved_eq (s : State) : answerReserved s = respond .err 1 s := rfl

/-! ## respond -/

@[simp] theorem respond_cfg (t : RType) (v : Word64) (s : State) : (respond t v s).cfg = s.cfg := rfl
@[simp] theorem respond_act (t : RType) (v : Word64) (s : State) : (respond t v s).act = s.act := rfl
@[simp] theorem respond_h1 (t : RType) (v : Word64) (s : State) : (respond t v s).h1 = s.h1 := rfl
@[simp] theorem respond_h2 (t : RType) (v : Word64) (s : State) : (respond t v s).h2 = s.h2 := rfl
@[simp] theorem respond_cnt (t : RType) (v : Word64) (s : State) : (respond t v s).cnt = s.cnt := rfl
@[simp] theorem respond_rem (t : RType) (v : Word64) (s : State) : (respond t v s).rem = s.rem := rfl
@[simp] theorem respond_kh (t : RType) (v : Word64) (s : State) : (respond t v s).kh = s.kh := rfl
@[simp] theorem respond_ph (t : RType) (v : Word64) (s : State) : (respond t v s).ph = s.ph := rfl
@[simp] theorem respond_h1_32 (t : RType) (v : Word64) (s : State) : (respond t v s).h1_32 = s.h1_32 := rfl
@[simp] theorem respond_cnt_32 (t : RType) (v : Word64) (s : State) : (respond t v s).cnt_32 = s.cnt_32 := rfl
@[simp] theorem respond_rem_32 (t : RType) (v : Word64) (s : State) : (respond t v s).rem_32 = s.rem_32 := rfl
@[simp] theorem respond_input (t : RType) (v : Word64) (s : State) : (respond t v s).input = s.input := rfl
@[simp] theorem respond_rsps (t : RType) (v : Word64) (s : State) : (respond t v s).rsps = s.rsps ++ [{ rtype := t, rdata := v }] := rfl
@[simp] theorem respond_free (t : RType) (v : Word64) (s : State) : (respond t v s).free = s.free := rfl

/-! ## goIdle64 -/

@[simp] theorem goIdle64_cfg (s : State) : (goIdle64 s).cfg = s.cfg := rfl
@[simp] theorem goIdle64_act (s : State) : (goIdle64 s).act = false := rfl
@[simp] theorem goIdle64_h1 (s : State) : (goIdle64 s).h1 = Config.freeWord s.free := rfl
@[simp] theorem goIdle64_h2 (s : State) : (goIdle64 s).h2 = Config.freeWord (s.free + 1) := rfl
@[simp] theorem goIdle64_cnt (s : State) : (goIdle64 s).cnt = Config.freeWord (s.free + 2) := rfl
@[simp] theorem goIdle64_rem (s : State) : (goIdle64 s).rem = Config.freeWord (s.free + 3) := rfl
@[simp] theorem goIdle64_kh (s : State) : (goIdle64 s).kh = Config.freeWord (s.free + 4) := rfl
@[simp] theorem goIdle64_ph (s : State) : (goIdle64 s).ph = false := rfl
@[simp] theorem goIdle64_h1_32 (s : State) : (goIdle64 s).h1_32 = s.h1_32 := rfl
@[simp] theorem goIdle64_cnt_32 (s : State) : (goIdle64 s).cnt_32 = s.cnt_32 := rfl
@[simp] theorem goIdle64_rem_32 (s : State) : (goIdle64 s).rem_32 = s.rem_32 := rfl
@[simp] theorem goIdle64_input (s : State) : (goIdle64 s).input = s.input := rfl
@[simp] theorem goIdle64_rsps (s : State) : (goIdle64 s).rsps = s.rsps := rfl
@[simp] theorem goIdle64_free (s : State) : (goIdle64 s).free = s.free + 5 := rfl

/-! ## goIdle32 -/

@[simp] theorem goIdle32_cfg (s : State) : (goIdle32 s).cfg = s.cfg := rfl
@[simp] theorem goIdle32_act (s : State) : (goIdle32 s).act = false := rfl
@[simp] theorem goIdle32_h1 (s : State) : (goIdle32 s).h1 = s.h1 := rfl
@[simp] theorem goIdle32_h2 (s : State) : (goIdle32 s).h2 = s.h2 := rfl
@[simp] theorem goIdle32_cnt (s : State) : (goIdle32 s).cnt = s.cnt := rfl
@[simp] theorem goIdle32_rem (s : State) : (goIdle32 s).rem = s.rem := rfl
@[simp] theorem goIdle32_kh (s : State) : (goIdle32 s).kh = s.kh := rfl
@[simp] theorem goIdle32_ph (s : State) : (goIdle32 s).ph = s.ph := rfl
@[simp] theorem goIdle32_h1_32 (s : State) : (goIdle32 s).h1_32 = Config.freeWord32 s.free := rfl
@[simp] theorem goIdle32_cnt_32 (s : State) : (goIdle32 s).cnt_32 = Config.freeWord32 (s.free + 1) := rfl
@[simp] theorem goIdle32_rem_32 (s : State) : (goIdle32 s).rem_32 = Config.freeWord32 (s.free + 2) := rfl
@[simp] theorem goIdle32_input (s : State) : (goIdle32 s).input = s.input := rfl
@[simp] theorem goIdle32_rsps (s : State) : (goIdle32 s).rsps = s.rsps := rfl
@[simp] theorem goIdle32_free (s : State) : (goIdle32 s).free = s.free + 3 := rfl

/-! ## open64 -/

@[simp] theorem open64_cfg (n : Word64) (s : State) : (open64 n s).cfg = s.cfg := rfl
@[simp] theorem open64_act (n : Word64) (s : State) : (open64 n s).act = true := rfl
@[simp] theorem open64_h1 (n : Word64) (s : State) : (open64 n s).h1 = C1 ^^^ n := rfl
@[simp] theorem open64_h2 (n : Word64) (s : State) : (open64 n s).h2 = C2 ^^^ n := rfl
@[simp] theorem open64_cnt (n : Word64) (s : State) : (open64 n s).cnt = n := rfl
@[simp] theorem open64_rem (n : Word64) (s : State) : (open64 n s).rem = n := rfl
@[simp] theorem open64_kh (n : Word64) (s : State) : (open64 n s).kh = s.kh := rfl
@[simp] theorem open64_ph (n : Word64) (s : State) : (open64 n s).ph = false := rfl
@[simp] theorem open64_h1_32 (n : Word64) (s : State) : (open64 n s).h1_32 = s.h1_32 := rfl
@[simp] theorem open64_cnt_32 (n : Word64) (s : State) : (open64 n s).cnt_32 = s.cnt_32 := rfl
@[simp] theorem open64_rem_32 (n : Word64) (s : State) : (open64 n s).rem_32 = s.rem_32 := rfl
@[simp] theorem open64_input (n : Word64) (s : State) : (open64 n s).input = s.input := rfl
@[simp] theorem open64_rsps (n : Word64) (s : State) : (open64 n s).rsps = s.rsps := rfl
@[simp] theorem open64_free (n : Word64) (s : State) : (open64 n s).free = s.free := rfl

/-! ## hold64 -/

@[simp] theorem hold64_cfg (k : Word64) (s : State) : (hold64 k s).cfg = s.cfg := rfl
@[simp] theorem hold64_act (k : Word64) (s : State) : (hold64 k s).act = s.act := rfl
@[simp] theorem hold64_h1 (k : Word64) (s : State) : (hold64 k s).h1 = s.h1 := rfl
@[simp] theorem hold64_h2 (k : Word64) (s : State) : (hold64 k s).h2 = s.h2 := rfl
@[simp] theorem hold64_cnt (k : Word64) (s : State) : (hold64 k s).cnt = s.cnt := rfl
@[simp] theorem hold64_rem (k : Word64) (s : State) : (hold64 k s).rem = s.rem - 1 := rfl
@[simp] theorem hold64_kh (k : Word64) (s : State) : (hold64 k s).kh = k := rfl
@[simp] theorem hold64_ph (k : Word64) (s : State) : (hold64 k s).ph = true := rfl
@[simp] theorem hold64_h1_32 (k : Word64) (s : State) : (hold64 k s).h1_32 = s.h1_32 := rfl
@[simp] theorem hold64_cnt_32 (k : Word64) (s : State) : (hold64 k s).cnt_32 = s.cnt_32 := rfl
@[simp] theorem hold64_rem_32 (k : Word64) (s : State) : (hold64 k s).rem_32 = s.rem_32 := rfl
@[simp] theorem hold64_input (k : Word64) (s : State) : (hold64 k s).input = s.input := rfl
@[simp] theorem hold64_rsps (k : Word64) (s : State) : (hold64 k s).rsps = s.rsps := rfl
@[simp] theorem hold64_free (k : Word64) (s : State) : (hold64 k s).free = s.free := rfl

/-! ## mixed64 -/

@[simp] theorem mixed64_cfg (h : Word64 × Word64) (s : State) : (mixed64 h s).cfg = s.cfg := rfl
@[simp] theorem mixed64_act (h : Word64 × Word64) (s : State) : (mixed64 h s).act = s.act := rfl
@[simp] theorem mixed64_h1 (h : Word64 × Word64) (s : State) : (mixed64 h s).h1 = h.1 := rfl
@[simp] theorem mixed64_h2 (h : Word64 × Word64) (s : State) : (mixed64 h s).h2 = h.2 := rfl
@[simp] theorem mixed64_cnt (h : Word64 × Word64) (s : State) : (mixed64 h s).cnt = s.cnt := rfl
@[simp] theorem mixed64_rem (h : Word64 × Word64) (s : State) : (mixed64 h s).rem = s.rem - 1 := rfl
@[simp] theorem mixed64_kh (h : Word64 × Word64) (s : State) : (mixed64 h s).kh = s.kh := rfl
@[simp] theorem mixed64_ph (h : Word64 × Word64) (s : State) : (mixed64 h s).ph = false := rfl
@[simp] theorem mixed64_h1_32 (h : Word64 × Word64) (s : State) : (mixed64 h s).h1_32 = s.h1_32 := rfl
@[simp] theorem mixed64_cnt_32 (h : Word64 × Word64) (s : State) : (mixed64 h s).cnt_32 = s.cnt_32 := rfl
@[simp] theorem mixed64_rem_32 (h : Word64 × Word64) (s : State) : (mixed64 h s).rem_32 = s.rem_32 := rfl
@[simp] theorem mixed64_input (h : Word64 × Word64) (s : State) : (mixed64 h s).input = s.input := rfl
@[simp] theorem mixed64_rsps (h : Word64 × Word64) (s : State) : (mixed64 h s).rsps = s.rsps := rfl
@[simp] theorem mixed64_free (h : Word64 × Word64) (s : State) : (mixed64 h s).free = s.free := rfl

/-! ## open32 -/

@[simp] theorem open32_cfg (n : Word32) (s : State) : (open32 n s).cfg = s.cfg := rfl
@[simp] theorem open32_act (n : Word32) (s : State) : (open32 n s).act = true := rfl
@[simp] theorem open32_h1 (n : Word32) (s : State) : (open32 n s).h1 = s.h1 := rfl
@[simp] theorem open32_h2 (n : Word32) (s : State) : (open32 n s).h2 = s.h2 := rfl
@[simp] theorem open32_cnt (n : Word32) (s : State) : (open32 n s).cnt = s.cnt := rfl
@[simp] theorem open32_rem (n : Word32) (s : State) : (open32 n s).rem = s.rem := rfl
@[simp] theorem open32_kh (n : Word32) (s : State) : (open32 n s).kh = s.kh := rfl
@[simp] theorem open32_ph (n : Word32) (s : State) : (open32 n s).ph = s.ph := rfl
@[simp] theorem open32_h1_32 (n : Word32) (s : State) : (open32 n s).h1_32 = C1_32 ^^^ n := rfl
@[simp] theorem open32_cnt_32 (n : Word32) (s : State) : (open32 n s).cnt_32 = n := rfl
@[simp] theorem open32_rem_32 (n : Word32) (s : State) : (open32 n s).rem_32 = n := rfl
@[simp] theorem open32_input (n : Word32) (s : State) : (open32 n s).input = s.input := rfl
@[simp] theorem open32_rsps (n : Word32) (s : State) : (open32 n s).rsps = s.rsps := rfl
@[simp] theorem open32_free (n : Word32) (s : State) : (open32 n s).free = s.free := rfl

/-! ## mixed32 -/

@[simp] theorem mixed32_cfg (h : Word32) (s : State) : (mixed32 h s).cfg = s.cfg := rfl
@[simp] theorem mixed32_act (h : Word32) (s : State) : (mixed32 h s).act = s.act := rfl
@[simp] theorem mixed32_h1 (h : Word32) (s : State) : (mixed32 h s).h1 = s.h1 := rfl
@[simp] theorem mixed32_h2 (h : Word32) (s : State) : (mixed32 h s).h2 = s.h2 := rfl
@[simp] theorem mixed32_cnt (h : Word32) (s : State) : (mixed32 h s).cnt = s.cnt := rfl
@[simp] theorem mixed32_rem (h : Word32) (s : State) : (mixed32 h s).rem = s.rem := rfl
@[simp] theorem mixed32_kh (h : Word32) (s : State) : (mixed32 h s).kh = s.kh := rfl
@[simp] theorem mixed32_ph (h : Word32) (s : State) : (mixed32 h s).ph = s.ph := rfl
@[simp] theorem mixed32_h1_32 (h : Word32) (s : State) : (mixed32 h s).h1_32 = h := rfl
@[simp] theorem mixed32_cnt_32 (h : Word32) (s : State) : (mixed32 h s).cnt_32 = s.cnt_32 := rfl
@[simp] theorem mixed32_rem_32 (h : Word32) (s : State) : (mixed32 h s).rem_32 = s.rem_32 - 1 := rfl
@[simp] theorem mixed32_input (h : Word32) (s : State) : (mixed32 h s).input = s.input := rfl
@[simp] theorem mixed32_rsps (h : Word32) (s : State) : (mixed32 h s).rsps = s.rsps := rfl
@[simp] theorem mixed32_free (h : Word32) (s : State) : (mixed32 h s).free = s.free := rfl

/-! ## withInput -/

@[simp] theorem withInput_cfg (rest : List HostAction) (s : State) : (withInput rest s).cfg = s.cfg := rfl
@[simp] theorem withInput_act (rest : List HostAction) (s : State) : (withInput rest s).act = s.act := rfl
@[simp] theorem withInput_h1 (rest : List HostAction) (s : State) : (withInput rest s).h1 = s.h1 := rfl
@[simp] theorem withInput_h2 (rest : List HostAction) (s : State) : (withInput rest s).h2 = s.h2 := rfl
@[simp] theorem withInput_cnt (rest : List HostAction) (s : State) : (withInput rest s).cnt = s.cnt := rfl
@[simp] theorem withInput_rem (rest : List HostAction) (s : State) : (withInput rest s).rem = s.rem := rfl
@[simp] theorem withInput_kh (rest : List HostAction) (s : State) : (withInput rest s).kh = s.kh := rfl
@[simp] theorem withInput_ph (rest : List HostAction) (s : State) : (withInput rest s).ph = s.ph := rfl
@[simp] theorem withInput_h1_32 (rest : List HostAction) (s : State) : (withInput rest s).h1_32 = s.h1_32 := rfl
@[simp] theorem withInput_cnt_32 (rest : List HostAction) (s : State) : (withInput rest s).cnt_32 = s.cnt_32 := rfl
@[simp] theorem withInput_rem_32 (rest : List HostAction) (s : State) : (withInput rest s).rem_32 = s.rem_32 := rfl
@[simp] theorem withInput_input (rest : List HostAction) (s : State) : (withInput rest s).input = rest := rfl
@[simp] theorem withInput_rsps (rest : List HostAction) (s : State) : (withInput rest s).rsps = s.rsps := rfl
@[simp] theorem withInput_free (rest : List HostAction) (s : State) : (withInput rest s).free = s.free := rfl

/-! ## dropCommand -/

@[simp] theorem dropCommand_cfg (s : State) : (dropCommand s).cfg = s.cfg := rfl
@[simp] theorem dropCommand_act (s : State) : (dropCommand s).act = s.act := rfl
@[simp] theorem dropCommand_h1 (s : State) : (dropCommand s).h1 = s.h1 := rfl
@[simp] theorem dropCommand_h2 (s : State) : (dropCommand s).h2 = s.h2 := rfl
@[simp] theorem dropCommand_cnt (s : State) : (dropCommand s).cnt = s.cnt := rfl
@[simp] theorem dropCommand_rem (s : State) : (dropCommand s).rem = s.rem := rfl
@[simp] theorem dropCommand_kh (s : State) : (dropCommand s).kh = s.kh := rfl
@[simp] theorem dropCommand_ph (s : State) : (dropCommand s).ph = s.ph := rfl
@[simp] theorem dropCommand_h1_32 (s : State) : (dropCommand s).h1_32 = s.h1_32 := rfl
@[simp] theorem dropCommand_cnt_32 (s : State) : (dropCommand s).cnt_32 = s.cnt_32 := rfl
@[simp] theorem dropCommand_rem_32 (s : State) : (dropCommand s).rem_32 = s.rem_32 := rfl
@[simp] theorem dropCommand_input (s : State) : (dropCommand s).input = s.input := rfl
@[simp] theorem dropCommand_rsps (s : State) : (dropCommand s).rsps = s.rsps := rfl
@[simp] theorem dropCommand_free (s : State) : (dropCommand s).free = s.free + 1 := rfl

end Sys2Proof.Machine
end

