-- ==== Sys2Proof/Laws/Steps.lean ====
section
/-! SUPPORT. What each shared operation and each meaning can do, said once; proofs about steps cite these and
unfold nothing. -/

namespace Sys2Proof.Machine

/-! ## The port -/

/-- Everything one look at the port can give. -/
theorem acceptNext_cases (s : State) :
    (s.input = [] ∧ acceptNext s = .settled s) ∨
    (∃ rest, s.input = .reset :: rest ∧ acceptNext s = .settled (applyReset (withInput rest s))) ∨
    (∃ w rest, s.input = .command w :: rest ∧ resetFollows rest = true ∧
      acceptNext s = .settled (dropCommand (withInput rest s))) ∨
    (∃ w rest op, s.input = .command w :: rest ∧ decode s.cfg.hashWidth w = .reserved op ∧
      acceptNext s = .settled (answerReserved (withInput rest s))) ∨
    (∃ w rest i, s.input = .command w :: rest ∧ decode s.cfg.hashWidth w = .instr i ∧
      acceptNext s = .run i (withInput rest s)) := by
  unfold acceptNext
  split
  · next h => exact .inl ⟨h, rfl⟩
  · next rest h => exact .inr (.inl ⟨rest, h, rfl⟩)
  · next w rest h =>
    split
    · next hd => exact .inr (.inr (.inl ⟨w, rest, h, by simp_all, rfl⟩))
    · unfold acceptWord
      split
      · next i hi => exact .inr (.inr (.inr (.inr ⟨w, rest, i, h, hi, rfl⟩)))
      · next op ho => exact .inr (.inr (.inr (.inl ⟨w, rest, op, h, ho, rfl⟩)))

/-- A command that no reset follows is accepted, never dropped. -/
theorem acceptNext_command {s : State} {w : CommandWord} {rest : List HostAction}
    (h : s.input = .command w :: rest) (hr : resetFollows rest = false) :
    acceptNext s = acceptWord w (withInput rest s) := by
  simp [acceptNext, h, hr]

theorem acceptWord_instr {s : State} {w : CommandWord} {i : Instr}
    (h : decode s.cfg.hashWidth w = .instr i) : acceptWord w s = .run i s := by
  simp [acceptWord, h]

theorem acceptWord_reserved {s : State} {w : CommandWord} {op : BitVec 4}
    (h : decode s.cfg.hashWidth w = .reserved op) : acceptWord w s = .settled (answerReserved s) := by
  simp [acceptWord, h]

/-- After `withoutLeadingResets` no reset comes first. -/
theorem resetFollows_withoutLeadingResets (l : List HostAction) :
    resetFollows (withoutLeadingResets l) = false := by
  induction l with
  | nil => rfl
  | cons a l ih => cases a with
    | command w => rfl
    | reset => exact ih

/-! ## Reset -/

theorem applyReset_w64 {s : State} (h : s.cfg.hashWidth = .w64) : applyReset s = goIdle64 s := by
  simp [applyReset, h]

theorem applyReset_w32 {s : State} (h : s.cfg.hashWidth = .w32) : applyReset s = goIdle32 s := by
  simp [applyReset, h]

@[simp] theorem applyReset_act (s : State) : (applyReset s).act = false := by
  cases h : s.cfg.hashWidth <;> simp [applyReset, h]

@[simp] theorem applyReset_cfg (s : State) : (applyReset s).cfg = s.cfg := by
  cases h : s.cfg.hashWidth <;> simp [applyReset, h]

@[simp] theorem applyReset_input (s : State) : (applyReset s).input = s.input := by
  cases h : s.cfg.hashWidth <;> simp [applyReset, h]

@[simp] theorem applyReset_rsps (s : State) : (applyReset s).rsps = s.rsps := by
  cases h : s.cfg.hashWidth <;> simp [applyReset, h]

/-! ## A step -/

/-- Everything a step can do: wait, reset, drop a command that a reset follows, answer a reserved word, or run a
command. -/
theorem step_cases {s t : State} (h : step s = .next t) :
    (s.input = [] ∧ t = s) ∨
    (∃ rest, s.input = .reset :: rest ∧ t = applyReset (withInput rest s)) ∨
    (∃ w rest, s.input = .command w :: rest ∧ resetFollows rest = true ∧
      t = dropCommand (withInput rest s)) ∨
    (∃ w rest op, s.input = .command w :: rest ∧ decode s.cfg.hashWidth w = .reserved op ∧
      t = answerReserved (withInput rest s)) ∨
    (∃ w rest i, s.input = .command w :: rest ∧ decode s.cfg.hashWidth w = .instr i ∧
      exec i (withInput rest s) = .next t) := by
  unfold step at h
  rcases acceptNext_cases s with ⟨hi, ha⟩ | ⟨rest, hi, ha⟩ | ⟨w, rest, hi, hr, ha⟩ |
    ⟨w, rest, op, hi, hd, ha⟩ | ⟨w, rest, i, hi, hd, ha⟩ <;> rw [ha] at h
  · cases h; exact .inl ⟨hi, rfl⟩
  · cases h; exact .inr (.inl ⟨rest, hi, rfl⟩)
  · cases h; exact .inr (.inr (.inl ⟨w, rest, hi, hr, rfl⟩))
  · cases h; exact .inr (.inr (.inr (.inl ⟨w, rest, op, hi, hd, rfl⟩)))
  · exact .inr (.inr (.inr (.inr ⟨w, rest, i, hi, hd, h⟩)))

/-- A run of no step stays where it is. -/
theorem core_run_zero (s : State) : Host.Core.run Sys2Proof.core 0 s = .next s := rfl

/-- A run goes on from the state its first step gives. -/
theorem core_run_succ (n : Nat) {s t : State} (h : step s = .next t) :
    Host.Core.run Sys2Proof.core (n + 1) s = Host.Core.run Sys2Proof.core n t := by
  have h' : Sys2Proof.core.step s = .next t := h
  simp only [Host.Core.run, h']

/-! ## The meanings: everything a next state can be -/

theorem execH2f_cases {i : Half} {s t : State} (h : execH2f i s = .next t) :
    t = respond .data (placeSingle (h2f i)) s := by
  cases h; rfl

theorem execF2h_cases {x : Single} {s t : State} (h : execF2h x s = .next t) :
    t = respond .data (placeHalf (f2h x)) s := by
  cases h; rfl

theorem execHinit_cases {n : Word64} {s t : State} (h : execHinit n s = .next t) :
    (n = 0 ∧ t = respond .data (fin64 C1 C2 0) (goIdle64 s)) ∨
    (n ≠ 0 ∧ t = respond .ack 0 (open64 n s)) := by
  unfold execHinit at h
  split at h
  · next hn => cases h; exact .inl ⟨hn, rfl⟩
  · next hn => cases h; exact .inr ⟨hn, rfl⟩

theorem execHpush_cases {k : Word64} {s t : State} (h : execHpush k s = .next t) :
    (s.act = false ∧ t = respond .err 2 s) ∨
    (s.act = true ∧ s.ph = false ∧ s.rem = 1 ∧ t = respond .data (fin64 s.h1 s.h2 s.cnt) (goIdle64 s)) ∨
    (s.act = true ∧ s.ph = false ∧ s.rem ≠ 1 ∧ t = respond .ack 0 (hold64 k s)) ∨
    (s.act = true ∧ s.ph = true ∧ s.rem = 1 ∧
      t = respond .data (fin64 (pairRound s.cfg.cH2B (s.h1, s.h2) s.kh k).1
        (pairRound s.cfg.cH2B (s.h1, s.h2) s.kh k).2 s.cnt) (goIdle64 s)) ∨
    (s.act = true ∧ s.ph = true ∧ s.rem ≠ 1 ∧
      t = respond .ack 0 (mixed64 (pairRound s.cfg.cH2B (s.h1, s.h2) s.kh k) s)) := by
  unfold execHpush at h
  split at h
  · next ha => cases h; exact .inl ⟨ha, rfl⟩
  · next ha =>
    split at h
    · next hp =>
      split at h
      · next hr => cases h; exact .inr (.inl ⟨by simpa using ha, hp, hr, rfl⟩)
      · next hr => cases h; exact .inr (.inr (.inl ⟨by simpa using ha, hp, hr, rfl⟩))
    · next hp =>
      simp only at h
      split at h
      · next hr => cases h; exact .inr (.inr (.inr (.inl ⟨by simpa using ha, by simpa using hp, hr, rfl⟩)))
      · next hr => cases h; exact .inr (.inr (.inr (.inr ⟨by simpa using ha, by simpa using hp, hr, rfl⟩)))

theorem execHinit32_cases {n : Word32} {s t : State} (h : execHinit32 n s = .next t) :
    (n = 0 ∧ t = respond .data (placeSingle (fin32 C1_32 0)) (goIdle32 s)) ∨
    (n ≠ 0 ∧ t = respond .ack 0 (open32 n s)) := by
  unfold execHinit32 at h
  split at h
  · next hn => cases h; exact .inl ⟨hn, rfl⟩
  · next hn => cases h; exact .inr ⟨hn, rfl⟩

theorem execHpush32_cases {k : Word32} {s t : State} (h : execHpush32 k s = .next t) :
    (s.act = false ∧ t = respond .err 2 s) ∨
    (s.act = true ∧ s.rem_32 = 1 ∧
      t = respond .data (placeSingle (fin32 (round32 s.h1_32 k) s.cnt_32)) (goIdle32 s)) ∨
    (s.act = true ∧ s.rem_32 ≠ 1 ∧ t = respond .ack 0 (mixed32 (round32 s.h1_32 k) s)) := by
  unfold execHpush32 at h
  split at h
  · next ha => cases h; exact .inl ⟨ha, rfl⟩
  · next ha =>
    split at h
    · next hr => cases h; exact .inr (.inl ⟨by simpa using ha, hr, rfl⟩)
    · next hr => cases h; exact .inr (.inr ⟨by simpa using ha, hr, rfl⟩)

end Sys2Proof.Machine
end

