-- ==== Sys2Proof/Tests/Slice0.lean ====
section
/-! SUPPORT. Tests. Expected results are the spec's own: the worked encodings of 30_encoding.md R55, the vectors
and programs of 95_test_vectors.md (its section is named at each test), or words written out from the
encoding of R45, R47 and R48. After them, for every statement with hypotheses, a concrete case that
meets them. -/

namespace Sys2Proof.Tests

open Sys2Proof.Machine

/-! ## Helpers -/

/-- The last response of a next state. -/
def answerOf (o : Host.Outcome State Fault Refusal) : Option Response :=
  match o with
  | .next t => t.rsps.getLast?
  | _ => none

/-- A next state satisfies `p`. -/
def nextHas (p : State → Bool) (o : Host.Outcome State Fault Refusal) : Bool :=
  match o with
  | .next t => p t
  | _ => false

/-- The response DATA v. -/
def dataIs (v : Word64) : Option Response := some { rtype := .data, rdata := v }

/-- The response ERR n. -/
def errIs (n : Word64) : Option Response := some { rtype := .err, rdata := n }

/-- The state after command 1 of program P2 (`hinit 2`). -/
def afterHinit2 : State :=
  { State.reset with
    act := true, cnt := 2, rem := 2, h1 := 0x87c37b91114253d7#64, h2 := 0x4cf5ad432745937d#64 }

/-- The state after command 2 of program P2 (`hpush 1`). -/
def afterPush1 : State := { afterHinit2 with kh := 1, ph := true, rem := 1 }

/-- The state after command 2 of program P3 (`hinit 3; hpush 1`). -/
def p3AfterPush1 : State :=
  { State.reset with
    act := true, cnt := 3, rem := 2, h1 := 0x87c37b91114253d6#64, h2 := 0x4cf5ad432745937c#64
    kh := 1, ph := true }

/-- The state after command 3 of program P3 (`hpush 2`). -/
def p3AfterPush2 : State :=
  { State.reset with
    act := true, cnt := 3, rem := 1, h1 := 0xa3f4dd7d63366499#64, h2 := 0x5c3189353226056c#64, kh := 1 }

/-- A 32-bit build, idle. -/
def idle32 : State := { State.reset with cfg := { hashWidth := .w32, cH2B := 0x38495ab5#64 } }

/-- A 32-bit build after `hinit n`, for n elements still to come. -/
def open32State (h1 n rem : Word32) : State :=
  { idle32 with act := true, h1_32 := h1, cnt_32 := n, rem_32 := rem }

/-- A state with the given host actions pending. -/
def pending (s : State) (l : List HostAction) : State := { s with input := l }

/-! ## WellFormed: the other build's commands are refused -/

theorem test_wellFormed_hinit32_refused : Instr.wellFormed .w64 (.hinit32 1) = false := by decide
theorem test_wellFormed_hpush32_refused : Instr.wellFormed .w64 (.hpush32 1) = false := by decide
theorem test_wellFormed_hinit_refused : Instr.wellFormed .w32 (.hinit 1) = false := by decide
theorem test_wellFormed_hpush_refused : Instr.wellFormed .w32 (.hpush 1) = false := by decide

/-! ## Decode: words written out from R45, R47 and R48, op in the top four bits -/

theorem test_decode_h2f : decode .w64
    0b0001_0000000000000000_0000000000000000_0000000000000000_0011110000000000#68
    = .instr (.h2f 0x3c00#16) := by decide

theorem test_decode_f2h : decode .w64
    0b0010_0000000000000000_0000000000000000_0011111110000000_0001000000000000#68
    = .instr (.f2h 0x3f801000#32) := by decide

theorem test_decode_hinit : decode .w64
    0b0100_0000000000000000_0000000000000000_0000000000000000_0000000000000011#68
    = .instr (.hinit 3#64) := by decide

theorem test_decode_hpush : decode .w64
    0b0101_1111111111111111_1111111111111111_1111111111111111_1111111111111111#68
    = .instr (.hpush 0xffffffffffffffff#64) := by decide

theorem test_decode_hinit32 : decode .w32
    0b0100_1111111111111111_1111111111111111_0000000000000000_0000000000000011#68
    = .instr (.hinit32 3#32) := by decide

theorem test_decode_hpush32 : decode .w32
    0b0101_1111111111111111_1111111111111111_0000000000000000_0000000000000001#68
    = .instr (.hpush32 1#32) := by decide

/-- 95_test_vectors.md section 1, "Upper bits ignored". -/
theorem test_decode_h2f_ignores : decode .w64 0x1ffffffffffff3c00#68 = .instr (.h2f 0x3c00#16) := by decide

/-- 95_test_vectors.md section 2, "Upper bits ignored". -/
theorem test_decode_f2h_ignores : decode .w64 0x2deadbeef3f800000#68 = .instr (.f2h 0x3f800000#32) := by
  decide

theorem test_decode_reserved3 : decode .w64 0x30000000000003c00#68 = .reserved 3#4 := by decide
theorem test_decode_reservedF : decode .w32 0xfffffffffffffffff#68 = .reserved 0xf#4 := by decide

/-- The table's number for a row, given in whole bytes, is its command word (opcode_table.json, row F2H). -/
theorem test_decodeTableWord : decodeTableWord 72 0x20000000000000000 = some (.f2h 0#32) := by decide
theorem test_decodeTableWord_reserved : decodeTableWord 72 0x60000000000000000 = none := by decide

/-- 30_encoding.md R55. -/
theorem test_encode : encode (.hinit 3) = 0x40000000000000003#68 := by decide

/-! ## Conversions (95_test_vectors.md sections 1 and 2) -/

theorem test_h2f_subnormal : answerOf (exec (.h2f 0x0003#16) State.reset) = dataIs 0x34400000#64 := by decide
theorem test_f2h_tie : answerOf (exec (.f2h 0x34200000#32) State.reset) = dataIs 0x0003#64 := by decide
theorem test_f2h_forced_nan : answerOf (exec (.f2h 0xff800001#32) State.reset) = dataIs 0xfc01#64 := by decide

/-! ## The hash's primitives (95_test_vectors.md section 3) -/

theorem test_rotl64 : rotl 0x8000000000000001#64 33 = 0x0000000300000000#64 := by decide
theorem test_rotl32 : rotl 0x80000001#32 15 = 0x0000c000#32 := by decide
theorem test_fmix64 : fmix64 1 = 0xb456bcfc34c2cb2c#64 := by decide
theorem test_premix1 : premix1 3 = 0x57f4baa5eae28e27#64 := by decide
theorem test_premix2 : premix2 4 = 0x9ddaa935802161cd#64 := by decide
theorem test_fmix32 : fmix32 1 = 0x514e28b7#32 := by decide
theorem test_premix32 : premix32 1 = 0xc3539a5d#32 := by decide

/-! ## HINIT and HPUSH (95_test_vectors.md section 6) -/

/-- P2, command 1. -/
theorem test_hinit_opens : nextHas (fun t => t.act && !t.ph && t.cnt == 2 && t.rem == 2 &&
    t.h1 == 0x87c37b91114253d7#64 && t.h2 == 0x4cf5ad432745937d#64) (exec (.hinit 2) State.reset) = true := by
  decide

/-- P4, command 1, here with a sequence open and an element held. -/
theorem test_hinit_zero : answerOf (exec (.hinit 0) afterPush1) = dataIs 0x68d1653a81dff25b#64 := by decide

/-- P3, command 3: the pair (1, 2) is mixed and one element is still owed. -/
theorem test_hpush_mixes : nextHas (fun t => t.act && !t.ph && t.rem == 1 &&
    t.h1 == 0xa3f4dd7d63366499#64 && t.h2 == 0x5c3189353226056c#64) (exec (.hpush 2) p3AfterPush1) = true := by
  decide

/-- P3, command 5: the odd last element is not looked at. -/
theorem test_hpush_drops : answerOf (exec (.hpush 0xffffffffffffffff#64) p3AfterPush2)
    = dataIs 0x171598da7c951917#64 := by decide

/-- 42_hash32_variant.md R105's example. -/
theorem test_hinit32_opens : nextHas (fun t => t.act && t.rem_32 == 3 && t.h1_32 == 0xcc9e2d52#32)
    (exec (.hinit32 3) idle32) = true := by decide

/-- 42_hash32_variant.md R106's example. -/
theorem test_hpush32_last : answerOf (exec (.hpush32 1) (open32State 0xcc9e2d50#32 1 1))
    = dataIs 0x000000002cbdd253#64 := by decide

/-! ## The port and reset -/

/-- 95_test_vectors.md section 1, the NaN 0xfc01, as the first command after reset. -/
theorem test_first_command : answerOf (step (State.reset.withFetchWord 72 0x1000000000000fc01))
    = dataIs 0xff802000#64 := by decide

/-- P5, command 6: a reserved word leaves an open sequence as it was. -/
theorem test_reserved_word : nextHas (fun t => t.rsps.getLast? == errIs 1 && t.kh == 1 && t.ph && t.rem == 1)
    (step (pending afterPush1 [.command 0xfffffffffffffffff#68])) = true := by decide

/-- P7, event 3: reset forgets the open sequence and produces no response. -/
theorem test_reset : nextHas (fun t => !t.act && !t.ph && t.rsps == [] && t.input == [])
    (step (pending p3AfterPush1 [.reset])) = true := by decide

/-! ## Text (30_encoding.md R53, R54, R55) -/

theorem test_assemble_hpush : assemble ['h', 'p', 'u', 's', 'h', ' ', '-', '1', ' ', ';', 'x']
    = some [0x5ffffffffffffffff#68] := by decide

theorem test_assemble_wide : assemble ['h', '2', 'f', ' ', '6', '5', '5', '3', '6'] = none := by decide

theorem test_assemble_hash : assemble ['h', 'a', 's', 'h', '(', '1', ',', ' ', '0', 'x', '2', ')']
    = some [0x40000000000000002#68, 0x50000000000000001#68, 0x50000000000000002#68] := by decide

theorem test_spell_command : spellCommand 0x40000000000000003#68
    = ['0', 'x', '4', '_', '0', '0', '0', '0', '0', '0', '0', '0', '0', '0', '0', '0', '0', '0', '0', '3'] := by
  decide

theorem test_spell_error : spellResponse { rtype := .err, rdata := 2 } = ['E', 'R', 'R', ' ', '2'] := by decide

/-! ## Witnesses: every statement's hypotheses are met by a concrete case -/

theorem witness_DecodeInvertsEncode :
    Instr.wellFormed .w64 (.hpush 5) = true ∧ Instr.wellFormed .w32 (.hpush32 5) = true := by decide

/-- Both kinds of response whose datum the statement names, each from one step. -/
theorem witness_ResponseFormat :
    (∃ s t : State, step s = .next t ∧ t.rsps = s.rsps ++ [{ rtype := .ack, rdata := 0 }]) ∧
    (∃ s t : State, step s = .next t ∧ t.rsps = s.rsps ++ [{ rtype := .err, rdata := 2 }]) :=
  ⟨⟨State.reset.withFetchWord 72 0x40000000000000003, _, rfl, rfl⟩,
    ⟨State.reset.withFetchWord 72 0x50000000000000009, _, rfl, rfl⟩⟩

theorem witness_H2fZeroGivesSignedZero : (0x8000#16 : Half) &&& 0x7c00#16 = 0#16 ∧ 0x8000#16 &&& 0x03ff#16 = 0#16 := by
  decide

theorem witness_H2fSubnormalNormalised :
    ((0x0001#16 : Half) &&& 0x7c00#16 = 0#16 ∧ 0x0001#16 &&& 0x03ff#16 ≠ 0#16) ∧
    ((0x83ff#16 : Half) &&& 0x7c00#16 = 0#16 ∧ 0x83ff#16 &&& 0x03ff#16 ≠ 0#16) := by decide

theorem witness_H2fInfinityAndNan :
    ((0xfc00#16 : Half) &&& 0x7c00#16 = 0x7c00#16 ∧ 0xfc00#16 &&& 0x03ff#16 = 0#16) ∧
    ((0x7c01#16 : Half) &&& 0x7c00#16 = 0x7c00#16 ∧ 0x7c01#16 &&& 0x03ff#16 ≠ 0#16) := by decide

theorem witness_H2fNormalRebiased :
    ((0x0400#16 : Half) &&& 0x7c00#16 ≠ 0#16 ∧ 0x0400#16 &&& 0x7c00#16 ≠ 0x7c00#16) ∧
    ((0x7bff#16 : Half) &&& 0x7c00#16 ≠ 0#16 ∧ 0x7bff#16 &&& 0x7c00#16 ≠ 0x7c00#16) := by decide

/-- A finite half, an infinity and a NaN: one for each clause. -/
theorem witness_H2fIsExact : halfIsFinite 0x03ff#16 = true ∧ halfIsInf 0xfc00#16 = true ∧ halfIsNan 0x7c01#16 = true := by
  decide

theorem witness_H2fIsInjective : exec (.h2f 0x3c00#16) State.reset = exec (.h2f 0x3c00#16) State.reset := rfl

theorem witness_F2hFlushesToSignedZero :
    (0xb2ffffff#32 : Single) &&& 0x7f800000#32 < 0x33000000#32 ∧ (0x00000001#32 : Single) &&& 0x7f800000#32 < 0x33000000#32 := by
  decide

theorem witness_F2hSubnormalRounded :
    (0x33000000#32 ≤ (0x33000000#32 : Single) &&& 0x7f800000#32 ∧ (0x33000000#32 : Single) &&& 0x7f800000#32 ≤ 0x38000000#32) ∧
    (0x33000000#32 ≤ (0x387fffff#32 : Single) &&& 0x7f800000#32 ∧ (0x387fffff#32 : Single) &&& 0x7f800000#32 ≤ 0x38000000#32) := by
  decide

theorem witness_F2hOverflowsToInfinity :
    (0x47800000#32 ≤ (0x47800000#32 : Single) &&& 0x7f800000#32 ∧
      ¬ ((0x47800000#32 : Single) &&& 0x7f800000#32 = 0x7f800000#32 ∧ 0x47800000#32 &&& 0x007fffff#32 ≠ 0#32)) ∧
    (0x47800000#32 ≤ (0xff800000#32 : Single) &&& 0x7f800000#32 ∧
      ¬ ((0xff800000#32 : Single) &&& 0x7f800000#32 = 0x7f800000#32 ∧ 0xff800000#32 &&& 0x007fffff#32 ≠ 0#32)) := by
  decide

theorem witness_F2hNanPayload :
    (0xff800001#32 : Single) &&& 0x7f800000#32 = 0x7f800000#32 ∧ (0xff800001#32 : Single) &&& 0x007fffff#32 ≠ 0#32 := by
  decide

theorem witness_F2hNormalRounded :
    (0x38000000#32 < (0x38800000#32 : Single) &&& 0x7f800000#32 ∧ (0x38800000#32 : Single) &&& 0x7f800000#32 < 0x47800000#32) ∧
    (0x38000000#32 < (0x477fffff#32 : Single) &&& 0x7f800000#32 ∧ (0x477fffff#32 : Single) &&& 0x7f800000#32 < 0x47800000#32 ∧
      0x477ff000#32 ≤ (0x477fffff#32 : Single)) ∧
    (0x38000000#32 < (0x477fe001#32 : Single) &&& 0x7f800000#32 ∧ (0x477fe001#32 : Single) &&& 0x7f800000#32 < 0x47800000#32 ∧
      (0x477fe001#32 : Single) ≤ 0x477fefff#32) := by
  decide

/-- A finite single, and a half that is no NaN to compare with. -/
theorem witness_F2hNearestTiesAwayFromZero : singleIsFinite 0x477fffff#32 = true ∧ halfIsNan 0x7c00#16 = false := by decide

theorem witness_NanStaysNan : singleIsNan 0x7f800001#32 = true := by decide

theorem witness_OverflowBoundary :
    (singleIsFinite 0x477ff000#32 = true ∧ 65520 * 2 ^ 149 ≤ singleUnits 0x477ff000#32) ∧
    (singleIsFinite 0x477fefff#32 = true ∧ 65504 * 2 ^ 149 < singleUnits 0x477fefff#32 ∧
      singleUnits 0x477fefff#32 < 65520 * 2 ^ 149) ∧
    (singleIsFinite 0x477fe001#32 = true ∧ 65504 * 2 ^ 149 < singleUnits 0x477fe001#32 ∧
      singleUnits 0x477fe001#32 < 65520 * 2 ^ 149) := by decide

theorem witness_OddElementDropped : ([] : List Word64).length % 2 = 0 ∧ ([1, 2] : List Word64).length % 2 = 0 := by decide

theorem witness_HinitOpensOrAnswersEmpty : (1#64 : Word64) ≠ 0 ∧ (0#64 : Word64) = 0 := by decide

/-- One state for each of the five branches. -/
theorem witness_HpushEveryBranch :
    State.reset.act = false ∧
    (p3AfterPush2.act = true ∧ p3AfterPush2.ph = false ∧ p3AfterPush2.rem = 1) ∧
    (afterHinit2.act = true ∧ afterHinit2.ph = false ∧ afterHinit2.rem ≠ 1) ∧
    (afterPush1.act = true ∧ afterPush1.ph = true ∧ afterPush1.rem = 1) ∧
    (p3AfterPush1.act = true ∧ p3AfterPush1.ph = true ∧ p3AfterPush1.rem ≠ 1) := by decide

theorem witness_Hinit32OpensOrAnswersEmpty : (1#32 : Word32) ≠ 0 ∧ (0#32 : Word32) = 0 := by decide

/-- One state for each of the three branches. -/
theorem witness_Hpush32EveryBranch :
    idle32.act = false ∧
    ((open32State 0xcc9e2d50#32 1 1).act = true ∧ (open32State 0xcc9e2d50#32 1 1).rem_32 = 1) ∧
    ((open32State 0xcc9e2d53#32 2 2).act = true ∧ (open32State 0xcc9e2d53#32 2 2).rem_32 ≠ 1) := by decide

/-- A stream of three commands for a sequence of one element, a conversion between its two. -/
def stream64 : List CommandWord := [0x40000000000000001#68, 0x10000000000003c00#68, 0x50000000000000001#68]

theorem witness_HashStreamAnswersHash64 :
    State.reset.cfg.hashWidth = .w64 ∧ ([1] : List Word64).length < 2 ^ 64 ∧
    stream64.filter isHashWord = hashStream64 [1] ∧
    (pending State.reset (stream64.map .command ++ [])).input = stream64.map HostAction.command ++ [] ∧
    resetFollows [] = false := by decide

theorem witness_HashStreamAnswersHash32 :
    idle32.cfg.hashWidth = .w32 ∧ ([1] : List Word32).length < 2 ^ 32 ∧
    stream64.filter isHashWord = hashStream32 [1] ∧
    (pending idle32 (stream64.map .command ++ [])).input = stream64.map HostAction.command ++ [] ∧
    resetFollows [] = false := by decide

/-- A command, and one with another command behind it. -/
theorem witness_StepRunsDecodedCommand :
    (pending State.reset [.command 0x40000000000000003#68, .command 0#68]).input
      = .command 0x40000000000000003#68 :: [.command 0#68] ∧
    resetFollows [.command 0#68] = false ∧ decode State.reset.cfg.hashWidth 0x40000000000000003#68 = .instr (.hinit 3) := by
  decide

theorem witness_FetchWordIsRunNext :
    0x10000000000003c00 < 2 ^ 68 ∧
    decode State.reset.cfg.hashWidth (BitVec.ofNat 68 0x10000000000003c00) = .instr (.h2f 0x3c00#16) := by decide

/-- The lowest and highest reserved opcode of each range. -/
theorem witness_ReservedOpcodeAnswersError :
    (pending State.reset [.command 0#68]).input = [.command 0#68] ∧ resetFollows [] = false ∧
    opField 0x00000000000000000#68 = 0x0#4 ∧ opField 0x30000000000003c00#68 = 0x3#4 ∧
    0x6#4 ≤ opField 0x60000000000000000#68 ∧ 0x6#4 ≤ opField 0xfffffffffffffffff#68 := by decide

/-- Both errors occur. -/
theorem witness_ErrorsOnlyTwoAndHarmless :
    (∃ s t : State, step s = .next t ∧ t.rsps = s.rsps ++ [{ rtype := .err, rdata := 1 }]) ∧
    (∃ s t : State, step s = .next t ∧ t.rsps = s.rsps ++ [{ rtype := .err, rdata := 2 }]) :=
  ⟨⟨State.reset.withFetchWord 72 0x30000000000003c00, _, rfl, rfl⟩,
    ⟨State.reset.withFetchWord 72 0x50000000000000009, _, rfl, rfl⟩⟩

/-- A command with none behind it, and for the second clause an empty port and a reset. -/
theorem witness_OneResponsePerCommand :
    ((pending State.reset [.command 0#68]).input = .command 0#68 :: [] ∧ resetFollows [] = false) ∧
    (∀ w rest, State.reset.input ≠ HostAction.command w :: rest) ∧
    (∀ w rest, (pending State.reset [.reset]).input ≠ HostAction.command w :: rest) :=
  ⟨⟨rfl, rfl⟩, fun _ _ => by simp [State.reset], fun _ _ => by simp [pending]⟩

theorem witness_EveryStreamIsAnswered :
    (pending State.reset (stream64.map .command)).input = stream64.map HostAction.command := rfl

theorem witness_ResetMakesIdle :
    (pending afterPush1 [.reset]).input = .reset :: [] ∧ (pending afterPush1 [.reset]).cfg.hashWidth = .w64 := by decide

/-- Two states before a reset, one with a sequence open and one idle. -/
theorem witness_ResetForgetsOpenSequence :
    let s := pending afterPush1 [.reset]
    let u := pending State.reset [.reset]
    s ≠ u ∧ s.input = .reset :: [] ∧ u.cfg = s.cfg ∧ u.input = s.input ∧ u.rsps = s.rsps ∧ u.free = s.free := by
  decide

theorem witness_CommandBeforeReset :
    (pending afterPush1 [.command 0x50000000000000002#68, .reset]).input
      = .command 0x50000000000000002#68 :: .reset :: [] ∧
    (pending afterPush1 [.command 0x50000000000000002#68, .reset]).cfg.hashWidth = .w64 := by decide

/-- A state in the middle of a sequence, an element held, from which a step is taken. -/
theorem witness_InvariantKeptByStep :
    UnitInv (pending afterPush1 [.command 0x50000000000000002#68]) ∧
    ∃ t, step (pending afterPush1 [.command 0x50000000000000002#68]) = .next t :=
  ⟨⟨⟨fun _ => by decide, fun h => by cases h⟩, fun _ => ⟨[1], rfl, by decide, fun _ => rfl⟩⟩, _, rfl⟩

/-- A step in each build. -/
theorem witness_BuildIsFixed :
    (∃ t, step (pending State.reset [.command 0x40000000000000003#68]) = .next t) ∧
    State.reset.cfg.hashWidth = .w64 ∧
    (∃ t, step (pending idle32 [.command 0x40000000000000003#68]) = .next t) ∧ idle32.cfg.hashWidth = .w32 :=
  ⟨⟨_, rfl⟩, rfl, ⟨_, rfl⟩, rfl⟩

/-- Two different states that no host can tell apart, and a step from the first. -/
theorem witness_IdleRegistersUnobservable :
    ∃ s t s' : State, s ≠ t ∧ Indistinguishable s t ∧ step s = .next s' :=
  ⟨State.reset, { State.reset with h1 := 1, kh := 2 }, State.reset, by decide,
    ⟨rfl, rfl, rfl, rfl, rfl, fun h => by cases h⟩, rfl⟩

end Sys2Proof.Tests
end

section
/-! The conversions H2F and F2H as state updates (10_state.md R27). -/

namespace Sys2Proof.Machine

/-- All that H2F does in any state is append one response (40_half_codec.md R69). -/
@[simp] theorem exec_h2f (i : Half) (s : State) :
    exec (.h2f i) s = .next (respond .data (placeSingle (h2f i)) s) := rfl

/-- All that F2H does in any state is append one response (40_half_codec.md R59). -/
@[simp] theorem exec_f2h (x : Single) (s : State) :
    exec (.f2h x) s = .next (respond .data (placeHalf (f2h x)) s) := rfl

/-- Settles O45: the datum each conversion appends is a function of its operand alone, and `respond` writes no
field but the responses. -/
theorem convertersAreStateless : Obligations.ConvertersAreStateless := by
  unfold Obligations.ConvertersAreStateless
  constructor
  · intro i
    exact ⟨placeSingle (h2f i), exec_h2f i⟩
  · intro x
    exact ⟨placeHalf (f2h x), exec_f2h x⟩

end Sys2Proof.Machine
end

section
/-! The ports (20_memory.md R32, R40): what a step does for each kind of host action, and that every command
completes with one response of its own. -/

namespace Sys2Proof.Machine

/-! ## A step, by the host's next action -/

/-- With an empty command port a step changes nothing (70_reset_and_hazards.md R125). -/
theorem step_empty {s : State} (h : s.input = []) : step s = .next s := by
  simp only [step, acceptNext, h]

/-- A reset is applied with the actions behind it still to come (70_reset_and_hazards.md R119). -/
theorem step_reset {s : State} {rest : List HostAction} (h : s.input = .reset :: rest) :
    step s = .next (applyReset (withInput rest s)) := by
  simp only [step, acceptNext, h]

/-- A command of the build that no reset follows runs, its word taken off the port. -/
theorem step_instr {s : State} {w : CommandWord} {rest : List HostAction} {i : Instr}
    (h : s.input = .command w :: rest) (hr : resetFollows rest = false)
    (hd : decode s.cfg.hashWidth w = .instr i) : step s = exec i (withInput rest s) := by
  simp only [step, acceptNext_command h hr, acceptWord_instr (s := withInput rest s) hd]

/-- A reserved word that no reset follows is answered ERR 1 (30_encoding.md R50). -/
theorem step_reserved {s : State} {w : CommandWord} {rest : List HostAction} {op : BitVec 4}
    (h : s.input = .command w :: rest) (hr : resetFollows rest = false)
    (hd : decode s.cfg.hashWidth w = .reserved op) :
    step s = .next (answerReserved (withInput rest s)) := by
  simp only [step, acceptNext_command h hr, acceptWord_reserved (s := withInput rest s) hd]

/-! ## Every command completes (60_exceptions.md R109) -/

theorem execHinit_completes (n : Word64) (s : State) : ∃ t, execHinit n s = .next t := by
  unfold execHinit
  split <;> exact ⟨_, rfl⟩

theorem execHpush_completes (k : Word64) (s : State) : ∃ t, execHpush k s = .next t := by
  unfold execHpush
  split
  · exact ⟨_, rfl⟩
  · split
    · split <;> exact ⟨_, rfl⟩
    · dsimp only
      split <;> exact ⟨_, rfl⟩

theorem execHinit32_completes (n : Word32) (s : State) : ∃ t, execHinit32 n s = .next t := by
  unfold execHinit32
  split <;> exact ⟨_, rfl⟩

theorem execHpush32_completes (k : Word32) (s : State) : ∃ t, execHpush32 k s = .next t := by
  unfold execHpush32
  split
  · exact ⟨_, rfl⟩
  · split <;> exact ⟨_, rfl⟩

theorem exec_completes (i : Instr) (s : State) : ∃ t, exec i s = .next t := by
  cases i with
  | h2f h => exact ⟨_, exec_h2f h s⟩
  | f2h x => exact ⟨_, exec_f2h x s⟩
  | hinit n => exact execHinit_completes n s
  | hpush k => exact execHpush_completes k s
  | hinit32 n => exact execHinit32_completes n s
  | hpush32 k => exact execHpush32_completes k s

/-! ## Every command is answered once -/

/-- From `s` to `t` one response has been added behind the earlier ones, and nothing was taken off the port. -/
def AnsweredOnce (s t : State) : Prop := t.input = s.input ∧ ∃ r, t.rsps = s.rsps ++ [r]

/-- A response given from `u`, a state with the ports of `s`, is the one response since `s`. -/
theorem answeredOnce_respond {s u : State} (ty : RType) (v : Word64) (hi : u.input = s.input)
    (hr : u.rsps = s.rsps) : AnsweredOnce s (respond ty v u) :=
  ⟨hi, { rtype := ty, rdata := v }, by rw [respond_rsps, hr]⟩

theorem execHinit_answeredOnce {n : Word64} {s t : State} (h : execHinit n s = .next t) :
    AnsweredOnce s t := by
  obtain ⟨-, rfl⟩ | ⟨-, rfl⟩ := execHinit_cases h
  · exact answeredOnce_respond _ _ (goIdle64_input s) (goIdle64_rsps s)
  · exact answeredOnce_respond _ _ (open64_input n s) (open64_rsps n s)

theorem execHpush_answeredOnce {k : Word64} {s t : State} (h : execHpush k s = .next t) :
    AnsweredOnce s t := by
  obtain ⟨-, rfl⟩ | ⟨-, -, -, rfl⟩ | ⟨-, -, -, rfl⟩ | ⟨-, -, -, rfl⟩ | ⟨-, -, -, rfl⟩ := execHpush_cases h
  · exact answeredOnce_respond _ _ rfl rfl
  · exact answeredOnce_respond _ _ (goIdle64_input s) (goIdle64_rsps s)
  · exact answeredOnce_respond _ _ (hold64_input k s) (hold64_rsps k s)
  · exact answeredOnce_respond _ _ (goIdle64_input s) (goIdle64_rsps s)
  · exact answeredOnce_respond _ _ (mixed64_input _ s) (mixed64_rsps _ s)

theorem execHinit32_answeredOnce {n : Word32} {s t : State} (h : execHinit32 n s = .next t) :
    AnsweredOnce s t := by
  obtain ⟨-, rfl⟩ | ⟨-, rfl⟩ := execHinit32_cases h
  · exact answeredOnce_respond _ _ (goIdle32_input s) (goIdle32_rsps s)
  · exact answeredOnce_respond _ _ (open32_input n s) (open32_rsps n s)

theorem execHpush32_answeredOnce {k : Word32} {s t : State} (h : execHpush32 k s = .next t) :
    AnsweredOnce s t := by
  obtain ⟨-, rfl⟩ | ⟨-, -, rfl⟩ | ⟨-, -, rfl⟩ := execHpush32_cases h
  · exact answeredOnce_respond _ _ rfl rfl
  · exact answeredOnce_respond _ _ (goIdle32_input s) (goIdle32_rsps s)
  · exact answeredOnce_respond _ _ (mixed32_input _ s) (mixed32_rsps _ s)

theorem exec_answeredOnce {i : Instr} {s t : State} (h : exec i s = .next t) : AnsweredOnce s t := by
  cases i with
  | h2f i => rw [execH2f_cases h]; exact answeredOnce_respond _ _ rfl rfl
  | f2h x => rw [execF2h_cases h]; exact answeredOnce_respond _ _ rfl rfl
  | hinit n => exact execHinit_answeredOnce h
  | hpush k => exact execHpush_answeredOnce h
  | hinit32 n => exact execHinit32_answeredOnce h
  | hpush32 k => exact execHpush32_answeredOnce h

/-! ## The ports over a step -/

/-- A command that no reset follows, of the build or reserved, is taken off the port and answered once. -/
theorem step_command_answeredOnce {s : State} {w : CommandWord} {rest : List HostAction}
    (h : s.input = .command w :: rest) (hr : resetFollows rest = false) :
    ∃ t, step s = .next t ∧ AnsweredOnce (withInput rest s) t := by
  cases hd : decode s.cfg.hashWidth w with
  | instr i =>
    obtain ⟨t, ht⟩ := exec_completes i (withInput rest s)
    exact ⟨t, (step_instr h hr hd).trans ht, exec_answeredOnce ht⟩
  | reserved op => exact ⟨_, step_reserved h hr hd, answeredOnce_respond _ _ rfl rfl⟩

/-- A step that finds no command on the port, but nothing or a reset, produces no response. -/
theorem step_no_command_rsps {s : State} (h : ∀ w rest, s.input ≠ HostAction.command w :: rest) :
    ∃ t, step s = .next t ∧ t.rsps = s.rsps := by
  match hi : s.input with
  | [] => exact ⟨s, step_empty hi, rfl⟩
  | .reset :: rest => exact ⟨_, step_reset hi, applyReset_rsps _⟩
  | .command w :: rest => exact absurd hi (h w rest)

/-- Settles O42: decoding splits a command word into a command, each of whose branches ends in one `respond`,
and a reserved word, answered ERR 1; waiting and a reset write no response. -/
theorem oneResponsePerCommand : Obligations.OneResponsePerCommand := by
  unfold Obligations.OneResponsePerCommand
  constructor
  · intro s w rest hi hr
    obtain ⟨t, ht, hin, r, hrs⟩ := step_command_answeredOnce hi hr
    exact ⟨t, r, ht, hin, hrs⟩
  · intro s hs
    exact step_no_command_rsps hs

end Sys2Proof.Machine
end

section
/-! Decoding by opcode (30_encoding.md R47, R48, R50): what a command word with each `op` selects, in which
operand bits, and what the block does with a reserved one. -/

namespace Sys2Proof

/-! ## Decoding, by the `op` field -/

theorem decode_h2f {hw : HashWidth} {w : CommandWord} (h : opField w = 0x1#4) :
    decode hw w = .instr (.h2f ((dataField w).extractLsb' 0 16)) := by
  simp [decode, h]

theorem decode_f2h {hw : HashWidth} {w : CommandWord} (h : opField w = 0x2#4) :
    decode hw w = .instr (.f2h ((dataField w).extractLsb' 0 32)) := by
  simp [decode, h]

theorem decode_hinit {w : CommandWord} (h : opField w = 0x4#4) :
    decode .w64 w = .instr (.hinit (dataField w)) := by
  simp [decode, h]

theorem decode_hpush {w : CommandWord} (h : opField w = 0x5#4) :
    decode .w64 w = .instr (.hpush (dataField w)) := by
  simp [decode, h]

/-- The `op` values that R50 calls reserved. -/
def ReservedOp (op : BitVec 4) : Prop := op = 0x0#4 ∨ op = 0x3#4 ∨ 0x6#4 ≤ op

/-- A reserved `op` is none of the four that R47 assigns. -/
theorem ReservedOp.not_assigned {op : BitVec 4} (h : ReservedOp op) :
    op ≠ 0x1#4 ∧ op ≠ 0x2#4 ∧ op ≠ 0x4#4 ∧ op ≠ 0x5#4 := by
  unfold ReservedOp at h
  bv_omega

theorem decode_reserved {hw : HashWidth} {w : CommandWord} (h : ReservedOp (opField w)) :
    decode hw w = .reserved (opField w) := by
  obtain ⟨h1, h2, h4, h5⟩ := h.not_assigned
  simp only [decode, h1, h2, h4, h5, if_false]

end Sys2Proof

namespace Sys2Proof.Machine

/-- Settles O40: a reserved `op` is none of the assigned ones, so the word decodes to `.reserved` in either
build, and a reserved word is answered without a look at the state. -/
theorem reservedOpcodeAnswersError : Obligations.ReservedOpcodeAnswersError := by
  unfold Obligations.ReservedOpcodeAnswersError
  intro s w rest hi hr hop
  exact step_reserved hi hr (decode_reserved hop)

/-- Settles O4: `op` selects the command, and the operand is `data` cut to its width. -/
theorem operandExtraction : Obligations.OperandExtraction := by
  unfold Obligations.OperandExtraction
  intro hw data
  have hop (op : BitVec 4) : opField (op ++ data) = op := Laws.opField_commandWord op data
  have hdata (op : BitVec 4) : dataField (op ++ data) = data := Laws.dataField_commandWord op data
  refine ⟨?_, ?_, ?_, ?_⟩
  · rw [decode_h2f (hop _), hdata, BitVec.setWidth_eq_extractLsb' (by decide)]
  · rw [decode_f2h (hop _), hdata, BitVec.setWidth_eq_extractLsb' (by decide)]
  · rw [decode_hinit (hop _), hdata]
  · rw [decode_hpush (hop _), hdata]

end Sys2Proof.Machine
end

section
/-! The fields of the half and single patterns (40_half_codec.md R56, R57) as natural numbers, for any word: a
masked field is what division and remainder cut out, a sign is one bit, and parts that do not overlap add up. -/

namespace Sys2Proof.Machine

/-! ## Masks, single bits and disjoint parts of any word -/

/-- A field of `w` bits from bit `k` on, left in place by its mask. -/
theorem and_fieldMask (a w k : Nat) : a &&& (2 ^ w - 1) * 2 ^ k = a / 2 ^ k % 2 ^ w * 2 ^ k := by
  apply Nat.eq_of_testBit_eq
  intro j
  by_cases hj : k ≤ j
  · simp [Nat.testBit_mul_two_pow, Nat.testBit_two_pow_sub_one, Nat.testBit_mod_two_pow, Nat.testBit_div_two_pow,
      hj, Bool.and_comm]
  · simp [Nat.testBit_mul_two_pow, hj]

/-- A mask of one bit leaves that bit in place or nothing. -/
theorem and_oneBit_eq_zero_iff {n : Nat} (a : BitVec n) {k : Nat} (hk : k < n) :
    a &&& BitVec.twoPow n k = 0#n ↔ a.getLsbD k = false := by
  rw [BitVec.and_twoPow]
  cases a.getLsbD k
  · simp
  · have h : BitVec.twoPow n k ≠ 0#n := fun h => by
      have := congrArg (BitVec.getLsbD · k) h
      simp [hk] at this
    simp [h]

/-- Or-ing a multiple of `2^k` with something below `2^k` adds the two. -/
theorem toNat_or_of_disjoint {n : Nat} {a b : BitVec n} (k : Nat) (ha : a.toNat % 2 ^ k = 0)
    (hb : b.toNat < 2 ^ k) : (a ||| b).toNat = a.toNat + b.toNat := by
  have hm : 2 ^ k * (a.toNat / 2 ^ k) = a.toNat := Nat.mul_div_cancel' (Nat.dvd_of_mod_eq_zero ha)
  rw [BitVec.toNat_or, ← hm, Nat.two_pow_add_eq_or_of_lt hb]

/-! ## The fields of a half -/

theorem toNat_halfExpField (i : Half) : (i &&& 0x7c00#16).toNat = i.toNat / 2 ^ 10 % 2 ^ 5 * 2 ^ 10 :=
  (BitVec.toNat_and ..).trans (and_fieldMask _ 5 10)

theorem toNat_halfSigField (i : Half) : (i &&& 0x03ff#16).toNat = i.toNat % 2 ^ 10 :=
  (BitVec.toNat_and ..).trans (Nat.and_two_pow_sub_one_eq_mod _ 10)

/-- Exponent and significand together: all but the sign. -/
theorem toNat_halfMagnitude (i : Half) : (i &&& 0x7fff#16).toNat = i.toNat % 2 ^ 15 :=
  (BitVec.toNat_and ..).trans (Nat.and_two_pow_sub_one_eq_mod _ 15)

theorem h2fExp_eq_iff (i c : Half) : h2fExp i = c.setWidth 32 ↔ i &&& 0x7c00#16 = c := by
  unfold h2fExp
  bv_omega

theorem h2fSig_eq_zero_iff (i : Half) : h2fSig i = 0#32 ↔ i &&& 0x03ff#16 = 0#16 := by
  unfold h2fSig
  bv_omega

theorem toNat_h2fSig (i : Half) : (h2fSig i).toNat = i.toNat % 2 ^ 10 := by
  rw [h2fSig, BitVec.toNat_setWidth, toNat_halfSigField]
  omega

theorem h2fSign_eq (i : Half) : h2fSign i = if i &&& 0x8000#16 = 0#16 then 0#32 else 0x80000000#32 := by
  have hbit : i &&& 0x8000#16 = if i.getLsbD 15 then 0x8000#16 else 0#16 := BitVec.and_twoPow i 15
  rw [h2fSign, hbit]
  cases i.getLsbD 15 <;> decide

/-! ## The fields of a single -/

theorem toNat_f2hExp (x : Single) : (f2hExp x).toNat = x.toNat / 2 ^ 23 % 2 ^ 8 * 2 ^ 23 :=
  (BitVec.toNat_and ..).trans (and_fieldMask _ 8 23)

theorem toNat_f2hSig (x : Single) : (f2hSig x).toNat = x.toNat % 2 ^ 23 :=
  (BitVec.toNat_and ..).trans (Nat.and_two_pow_sub_one_eq_mod _ 23)

theorem f2hSign_eq (x : Single) : f2hSign x = if x &&& 0x80000000#32 = 0#32 then 0#32 else 0x8000#32 := by
  have hbit : x &&& 0x80000000#32 = if x.getLsbD 31 then 0x80000000#32 else 0#32 := BitVec.and_twoPow x 31
  have hsign : f2hSign x = if (x >>> 16).getLsbD 15 then 0x8000#32 else 0#32 := BitVec.and_twoPow _ 15
  rw [hsign, hbit, BitVec.getLsbD_ushiftRight]
  cases x.getLsbD 31 <;> decide

/-- In the sign's place, bit 15, stands all or nothing. -/
theorem toNat_f2hSign (x : Single) : (f2hSign x).toNat = 0 ∨ (f2hSign x).toNat = 2 ^ 15 := by
  rw [f2hSign_eq]
  split
  · exact .inl rfl
  · exact .inr rfl

/-- Or-ing the sign to a magnitude of 15 bits adds the two. -/
theorem toNat_f2hSign_or {x m : Single} (hm : m.toNat < 2 ^ 15) :
    (f2hSign x ||| m).toNat = (f2hSign x).toNat + m.toNat := by
  have hs : (f2hSign x).toNat % 2 ^ 15 = 0 := by have := toNat_f2hSign x; omega
  exact toNat_or_of_disjoint 15 hs hm

theorem singleIsNan_iff (x : Single) : singleIsNan x = true ↔ f2hExp x = 0x7f800000#32 ∧ f2hSig x ≠ 0#32 := by
  have he := toNat_f2hExp x
  have hs := toNat_f2hSig x
  simp only [singleIsNan, singleExp, singleSig, Bool.and_eq_true, beq_iff_eq, bne_iff_ne, BitVec.extractLsb'_toNat,
    Nat.shiftRight_eq_div_pow]
  bv_omega

theorem singleIsInf_iff (x : Single) : singleIsInf x = true ↔ f2hExp x = 0x7f800000#32 ∧ f2hSig x = 0#32 := by
  have he := toNat_f2hExp x
  have hs := toNat_f2hSig x
  simp only [singleIsInf, singleExp, singleSig, Bool.and_eq_true, beq_iff_eq, BitVec.extractLsb'_toNat,
    Nat.shiftRight_eq_div_pow]
  bv_omega

end Sys2Proof.Machine
end

section
/-! H2F, half to single (40_half_codec.md R70 to R74): what each case of the conversion answers. -/

namespace Sys2Proof.Machine

/-- H2F answers whatever its conversion, placed in the datum, comes to; only the responses change. -/
theorem exec_h2f_of_datum {i : Half} {v : Word64} (h : placeSingle (h2f i) = v) (s : State) :
    exec (.h2f i) s = .next { s with rsps := s.rsps ++ [{ rtype := .data, rdata := v }] } := by
  rw [exec_h2f, h]
  rfl

/-! ## Zeros (R71) -/

/-- Settles O8: the single is the sign alone, and the sign is one bit. -/
theorem h2fZeroGivesSignedZero : Obligations.H2fZeroGivesSignedZero := by
  unfold Obligations.H2fZeroGivesSignedZero
  intro i s he hm
  refine exec_h2f_of_datum ?_ s
  rw [h2f_zero ((h2fExp_eq_iff i 0).2 he) ((h2fSig_eq_zero_iff i).2 hm), h2fZero, h2fSign_eq]
  split <;> decide

/-! ## Subnormals (R72) -/

/-- The loop stops where bit 10 first appears, if its fuel reaches that far. -/
theorem normalize_eq {j fuel : Nat} (hf : j ≤ fuel) {m : Single} (n : Nat)
    (hlow : ∀ k, k < j → (m <<< k) &&& 0x400#32 = 0#32) (htop : (m <<< j) &&& 0x400#32 ≠ 0#32) :
    normalize fuel m n = (m <<< j, n + j) := by
  induction j generalizing fuel m n with
  | zero =>
    rw [BitVec.shiftLeft_zero] at htop ⊢
    cases fuel with
    | zero => rfl
    | succ fuel => simp only [normalize, htop, if_false, Nat.add_zero]
  | succ j ih =>
    obtain ⟨fuel, rfl⟩ : ∃ f, fuel = f + 1 := ⟨fuel - 1, by omega⟩
    have hshift (k : Nat) : m <<< 1 <<< k = m <<< (k + 1) := by rw [← BitVec.shiftLeft_add, Nat.add_comm]
    have h0 : m &&& 0x400#32 = 0#32 := by simpa using hlow 0 (by omega)
    have hrest : normalize fuel (m <<< 1) (n + 1) = (m <<< 1 <<< j, n + 1 + j) := by
      apply ih (by omega)
      · intro k hk
        rw [hshift]
        exact hlow (k + 1) (by omega)
      · rwa [hshift]
    rw [normalize, if_pos h0, hrest, hshift, Nat.add_right_comm, Nat.add_assoc]

/-- After `k` shifts bit 10 is the original bit `10 - k`. -/
theorem shiftLeft_and_bit10_eq_zero_iff (m : Single) {k : Nat} (hk : k ≤ 10) :
    (m <<< k) &&& 0x400#32 = 0#32 ↔ m.toNat.testBit (10 - k) = false := by
  have hbit : (m <<< k) &&& 0x400#32 = 0#32 ↔ (m <<< k).getLsbD 10 = false :=
    and_oneBit_eq_zero_iff (k := 10) _ (by decide)
  rw [hbit, BitVec.getLsbD_shiftLeft, ← BitVec.testBit_toNat]
  simp [hk]

/-- Fewer than `10 - log2 m` shifts bring no set bit up to bit 10. -/
theorem shiftLeft_and_bit10_of_lt {m : Single} (hm : m ≠ 0#32) {k : Nat} (hk : k < 10 - Nat.log2 m.toNat) :
    (m <<< k) &&& 0x400#32 = 0#32 := by
  rw [shiftLeft_and_bit10_eq_zero_iff m (by omega)]
  apply Nat.testBit_eq_false_of_lt
  rw [← Nat.log2_lt (BitVec.toNat_ne.1 hm)]
  omega

/-- Exactly `10 - log2 m` shifts bring the highest set bit up to bit 10. -/
theorem shiftLeft_and_bit10_of_log2 {m : Single} (hm : m ≠ 0#32) (hL : Nat.log2 m.toNat ≤ 10) :
    (m <<< (10 - Nat.log2 m.toNat)) &&& 0x400#32 ≠ 0#32 := by
  have htop : m.toNat.testBit (Nat.log2 m.toNat) = true := Nat.testBit_log2 (BitVec.toNat_ne.1 hm)
  rw [Ne, shiftLeft_and_bit10_eq_zero_iff m (by omega), Nat.sub_sub_self hL, htop]
  decide

/-- Settles O9: the loop's number of shifts is the one that brings the highest set bit up to bit 10. -/
theorem h2fSubnormalNormalised : Obligations.H2fSubnormalNormalised := by
  unfold Obligations.H2fSubnormalNormalised
  intro i s he hi m n
  have hm : m ≠ 0#32 := fun h => hi ((h2fSig_eq_zero_iff i).1 h)
  have hL : Nat.log2 m.toNat < 10 := by
    rw [Nat.log2_lt (BitVec.toNat_ne.1 hm), show m.toNat = i.toNat % 2 ^ 10 from toNat_h2fSig i]
    omega
  have hlow : ∀ k, k < n → (m <<< k) &&& 0x400#32 = 0#32 := fun k => shiftLeft_and_bit10_of_lt hm
  have htop : (m <<< n) &&& 0x400#32 ≠ 0#32 := shiftLeft_and_bit10_of_log2 hm (by omega)
  refine ⟨by omega, by omega, by omega, hlow, htop, exec_h2f_of_datum ?_ s⟩
  have hloop : normalize 10 (h2fSig i) 0 = (m <<< n, 0 + n) := normalize_eq (by omega) 0 hlow htop
  rw [h2f_subnormal ((h2fExp_eq_iff i 0).2 he) hm, h2fSubnormal, hloop, Nat.zero_add]
  rfl

/-! ## Infinities and NaNs (R73) -/

/-- The payload, moved to the single's significand, lies below the exponent field. -/
theorem toNat_h2fSig_shiftLeft (i : Half) : (h2fSig i <<< 13).toNat = i.toNat % 2 ^ 10 * 2 ^ 13 := by
  rw [BitVec.toNat_shiftLeft, toNat_h2fSig, Nat.shiftLeft_eq]
  omega

/-- The three parts of the answer lie apart. -/
theorem toNat_h2fInfOrNan (i : Half) :
    (h2fInfOrNan i).toNat = (h2fSign i).toNat + 0x7f800000 + i.toNat % 2 ^ 10 * 2 ^ 13 := by
  have hs : (h2fSign i ||| 0x7f800000#32).toNat = (h2fSign i).toNat + 0x7f800000 := by
    rw [h2fSign_eq]
    split <;> decide
  have h0 : (h2fSign i).toNat % 2 ^ 31 = 0 := by
    rw [h2fSign_eq]
    split <;> decide
  have hm := toNat_h2fSig_shiftLeft i
  rw [h2fInfOrNan, toNat_or_of_disjoint 23 (by omega) (by omega), hs, hm]

/-- Neither the sign above nor the payload below reaches into the exponent field. -/
theorem f2hExp_h2fInfOrNan (i : Half) : f2hExp (h2fInfOrNan i) = 0x7f800000#32 := by
  have hx := toNat_h2fInfOrNan i
  have he := toNat_f2hExp (h2fInfOrNan i)
  rw [h2fSign_eq] at hx
  split at hx <;> bv_omega

theorem f2hSig_h2fInfOrNan_eq_zero_iff (i : Half) : f2hSig (h2fInfOrNan i) = 0#32 ↔ i &&& 0x03ff#16 = 0#16 := by
  have hx := toNat_h2fInfOrNan i
  have hm := toNat_f2hSig (h2fInfOrNan i)
  have hi := toNat_halfSigField i
  rw [h2fSign_eq] at hx
  split at hx <;> bv_omega

/-- A half infinity gives an infinity. -/
theorem singleIsInf_h2fInfOrNan {i : Half} (h : i &&& 0x03ff#16 = 0#16) : singleIsInf (h2fInfOrNan i) = true :=
  (singleIsInf_iff _).2 ⟨f2hExp_h2fInfOrNan i, (f2hSig_h2fInfOrNan_eq_zero_iff i).2 h⟩

/-- A half NaN gives a NaN. -/
theorem singleIsNan_h2fInfOrNan {i : Half} (h : i &&& 0x03ff#16 ≠ 0#16) : singleIsNan (h2fInfOrNan i) = true :=
  (singleIsNan_iff _).2 ⟨f2hExp_h2fInfOrNan i, mt (f2hSig_h2fInfOrNan_eq_zero_iff i).1 h⟩

theorem h2f_of_exp_allOnes {i : Half} (h : i &&& 0x7c00#16 = 0x7c00#16) : h2f i = h2fInfOrNan i :=
  h2f_infOrNan ((h2fExp_eq_iff i 0x7c00#16).2 h)

/-- Settles O10: the model's INF_OR_NAN case is the rule's formula, whose significand is zero exactly when the
payload is. -/
theorem h2fInfinityAndNan : Obligations.H2fInfinityAndNan := by
  unfold Obligations.H2fInfinityAndNan
  intro i s he
  refine ⟨exec_h2f_of_datum ?_ s, singleIsInf_h2fInfOrNan, singleIsNan_h2fInfOrNan⟩
  rw [h2f_of_exp_allOnes he]
  rfl

/-! ## Normals (R74) -/

/-- With an exponent field below all ones the magnitude is at most 0x7bff. -/
theorem toNat_halfMagnitude_le {i : Half} (h : i &&& 0x7c00#16 ≠ 0x7c00#16) : (i &&& 0x7fff#16).toNat ≤ 0x7bff := by
  have he := toNat_halfExpField i
  have hm := toNat_halfMagnitude i
  bv_omega

/-- Settles O11: the sum is at most 0x7bff + 0x1c000, so no bit is lost in the shift. -/
theorem h2fNormalRebiased : Obligations.H2fNormalRebiased := by
  unfold Obligations.H2fNormalRebiased
  intro i s h0 h1 y
  constructor
  · have hm := toNat_halfMagnitude_le h1
    simp only [y, BitVec.le_def, BitVec.toNat_shiftLeft, BitVec.toNat_add, BitVec.toNat_setWidth, Nat.shiftLeft_eq,
      BitVec.toNat_ofNat]
    omega
  · refine exec_h2f_of_datum ?_ s
    rw [h2f_normal (mt (h2fExp_eq_iff i 0).1 h0) (mt (h2fExp_eq_iff i 0x7c00#16).1 h1), h2fNormal, BitVec.add_comm]
    rfl

end Sys2Proof.Machine
end

section
/-! F2H, single to half (40_half_codec.md R60 to R66): what each case of the conversion answers. -/

namespace Sys2Proof.Machine

/-- F2H answers whatever its conversion, placed in the datum, comes to; only the responses change. -/
theorem exec_f2h_of_datum {x : Single} {v : Word64} (h : placeHalf (f2h x) = v) (s : State) :
    exec (.f2h x) s = .next { s with rsps := s.rsps ++ [{ rtype := .data, rdata := v }] } := by
  rw [exec_f2h, h]
  rfl

/-- A result of 16 bits reaches the datum whole. -/
theorem placeHalf_extract {v : Single} (hv : v.toNat < 2 ^ 16) : placeHalf (v.extractLsb' 0 16) = v.setWidth 64 := by
  rw [placeHalf, BitVec.toNat_eq, BitVec.toNat_setWidth, BitVec.toNat_setWidth, BitVec.extractLsb'_toNat]
  omega

/-- The sign with a magnitude of 15 bits is such a result. -/
theorem placeHalf_sign_or {x m : Single} (hm : m.toNat < 2 ^ 15) :
    placeHalf ((f2hSign x ||| m).extractLsb' 0 16) = (f2hSign x ||| m).setWidth 64 := by
  apply placeHalf_extract
  have hs := toNat_f2hSign x
  rw [toNat_f2hSign_or hm]
  omega

/-! ## Zeros (R62) -/

/-- Settles O14: the half is the sign alone, and the sign is one bit. -/
theorem f2hFlushesToSignedZero : Obligations.F2hFlushesToSignedZero := by
  unfold Obligations.F2hFlushesToSignedZero
  intro x s he
  refine exec_f2h_of_datum ?_ s
  rw [f2h_zero he, f2hZero, f2hSign_eq]
  split <;> decide

/-! ## Subnormals (R63) -/

/-- The significand with its leading 1 has 24 bits. -/
theorem toNat_f2hSig_leadingOne (x : Single) : (f2hSig x ||| 0x800000#32).toNat = 2 ^ 23 + x.toNat % 2 ^ 23 := by
  have hm := toNat_f2hSig x
  rw [BitVec.or_comm, toNat_or_of_disjoint 23 (by decide) (by omega), hm]
  rfl

/-- A 24-bit significand, shifted right by 1 to 11 and rounded to its upper bits, is 1 to 0x400. -/
theorem roundedSubnormal_bounds {a k : Nat} (ha : 2 ^ 23 ≤ a) (ha' : a < 2 ^ 24) (hk : 1 ≤ k) (hk' : k ≤ 11) :
    1 ≤ (a / 2 ^ k + 0x1000) / 2 ^ 13 ∧ (a / 2 ^ k + 0x1000) / 2 ^ 13 ≤ 0x400 := by
  have hlow : a / 2 ^ 11 ≤ a / 2 ^ k := Nat.div_le_div_left (Nat.pow_le_pow_right (by decide) hk') (by positivity)
  have hhigh : a / 2 ^ k ≤ a / 2 ^ 1 := Nat.div_le_div_left (Nat.pow_le_pow_right (by decide) hk) (by decide)
  omega

/-- The rounded significand of R63 as a number. -/
theorem toNat_roundedSubnormal {m : Single} (k : Nat) (hm : m.toNat < 2 ^ 24) :
    (((m >>> k) + 0x1000#32) >>> 13).toNat = (m.toNat / 2 ^ k + 0x1000) / 2 ^ 13 := by
  have hk : m.toNat / 2 ^ k ≤ m.toNat := Nat.div_le_self _ _
  simp only [BitVec.toNat_ushiftRight, BitVec.toNat_add, BitVec.toNat_ofNat, Nat.shiftRight_eq_div_pow]
  rw [Nat.mod_eq_of_lt (by omega)]

/-- Settles O15: with 102 ≤ t ≤ 112 the 24-bit significand is shifted by 1 to 11, and 13 further bits are rounded
off. -/
theorem f2hSubnormalRounded : Obligations.F2hSubnormalRounded := by
  unfold Obligations.F2hSubnormalRounded
  intro x s h0 h1 t m3
  have he := toNat_f2hExp x
  have ht : t.toNat = x.toNat / 2 ^ 23 % 2 ^ 8 := by
    rw [show t = f2hExp x >>> 23 from rfl, BitVec.toNat_ushiftRight, he, Nat.shiftRight_eq_div_pow]
    omega
  have htl : 102 ≤ t.toNat := by
    have : 0x33000000 ≤ (f2hExp x).toNat := h0
    omega
  have hth : t.toNat ≤ 112 := by
    have : (f2hExp x).toNat ≤ 0x38000000 := h1
    omega
  have hm1 := toNat_f2hSig_leadingOne x
  have hm3 : m3.toNat = ((2 ^ 23 + x.toNat % 2 ^ 23) / 2 ^ (113 - t.toNat) + 0x1000) / 2 ^ 13 := by
    rw [← hm1]
    exact toNat_roundedSubnormal (m := f2hSig x ||| 0x800000#32) _ (by omega)
  obtain ⟨hlow, hhigh⟩ := roundedSubnormal_bounds (a := 2 ^ 23 + x.toNat % 2 ^ 23) (k := 113 - t.toNat)
    (by omega) (by omega) (by omega) (by omega)
  rw [← hm3] at hlow hhigh
  refine ⟨htl, hth, hlow, hhigh, ?_, exec_f2h_of_datum ?_ s⟩
  · intro h102
    apply BitVec.eq_of_toNat_eq
    rw [hm3, h102]
    change (_ / 2 ^ 11 + 0x1000) / 2 ^ 13 = 1
    omega
  · have hf : f2hSubnormal x = (f2hSign x ||| m3).extractLsb' 0 16 := by
      rw [f2hSubnormal, BitVec.add_comm]
      rfl
    rw [f2h_subnormal h0 h1, hf, placeHalf_sign_or (by omega)]
    rfl

/-! ## Infinities (R64) -/

/-- Settles O16: the model's INFINITY case is the rule's formula. -/
theorem f2hOverflowsToInfinity : Obligations.F2hOverflowsToInfinity := by
  unfold Obligations.F2hOverflowsToInfinity
  intro x s he hn
  refine exec_f2h_of_datum ?_ s
  rw [f2h_infinity he hn, f2hInfinity, placeHalf_sign_or (by decide)]
  rfl

/-! ## NaNs (R65) -/

/-- The truncated payload, forced to 1 where it is zero. -/
def nanPayload (x : Single) : Single := if f2hSig x >>> 13 = 0#32 then 1#32 else f2hSig x >>> 13

theorem nanPayload_bounds (x : Single) : 1 ≤ (nanPayload x).toNat ∧ (nanPayload x).toNat < 2 ^ 10 := by
  have hm := toNat_f2hSig x
  unfold nanPayload
  split
  · decide
  · bv_omega

/-- Both branches of the NAN case are the sign, the exponent bits and a non-zero payload. -/
theorem f2hNan_eq (x : Single) : f2hNan x = (f2hSign x ||| (0x7c00#32 ||| nanPayload x)).extractLsb' 0 16 := by
  unfold f2hNan nanPayload
  dsimp only
  split
  · rfl
  · rw [BitVec.or_assoc]

/-- The magnitude of a half NaN is the infinity's with the payload added. -/
theorem toNat_nanMagnitude (x : Single) : (0x7c00#32 ||| nanPayload x).toNat = 0x7c00 + (nanPayload x).toNat :=
  toNat_or_of_disjoint 10 (by decide) (nanPayload_bounds x).2

theorem toNat_f2hNan (x : Single) :
    (f2hNan x).toNat = (f2hSign x).toNat + (0x7c00 + (nanPayload x).toNat) := by
  obtain ⟨-, hp⟩ := nanPayload_bounds x
  have hs := toNat_f2hSign x
  have hm := toNat_nanMagnitude x
  rw [f2hNan_eq, BitVec.extractLsb'_toNat, toNat_f2hSign_or (by omega), hm]
  omega

/-- Settles O17: the rule's choice between 0x7c01 and 0x7c00 with the payload is that of `nanPayload`. -/
theorem f2hNanPayload : Obligations.F2hNanPayload := by
  unfold Obligations.F2hNanPayload
  intro x s he hx p
  obtain ⟨-, hp⟩ := nanPayload_bounds x
  have hm := toNat_nanMagnitude x
  have hrule : (if p = 0#32 then 0x7c01#32 else 0x7c00#32 ||| p) = 0x7c00#32 ||| nanPayload x :=
    (apply_ite (0x7c00#32 ||| ·) (p = 0#32) 1#32 p).symm
  refine exec_f2h_of_datum ?_ s
  rw [f2h_nan he hx, f2hNan_eq, placeHalf_sign_or (by omega), hrule]
  rfl

/-! ## Normals (R66) -/

/-- The rebiased exponent and the rounded significand, added (R66). -/
def normalSum (x : Single) : Single :=
  ((f2hExp x - 0x38000000#32) >>> 13) + ((f2hSig x + 0x1000#32) >>> 13)

/-- As a number: the exponent field less 112, in bit 10 and up, and the significand rounded by 13 bits. -/
theorem toNat_normalSum {x : Single} (h0 : 0x38000000#32 < f2hExp x) :
    (normalSum x).toNat = (x.toNat / 2 ^ 23 % 2 ^ 8 - 112) * 2 ^ 10 + (x.toNat % 2 ^ 23 + 0x1000) / 2 ^ 13 := by
  have he := toNat_f2hExp x
  have hm := toNat_f2hSig x
  have h0' : 0x38000000 < (f2hExp x).toNat := h0
  have hsub : (f2hExp x - 0x38000000#32).toNat = (f2hExp x).toNat - 0x38000000 :=
    BitVec.toNat_sub_of_le (BitVec.le_of_lt h0)
  have hadd : (f2hSig x + 0x1000#32).toNat = (f2hSig x).toNat + 0x1000 :=
    BitVec.toNat_add_of_lt (by rw [hm]; simp only [BitVec.toNat_ofNat]; omega)
  rw [normalSum, BitVec.toNat_add, BitVec.toNat_ushiftRight, BitVec.toNat_ushiftRight, hsub, hadd, he, hm,
    Nat.shiftRight_eq_div_pow, Nat.shiftRight_eq_div_pow]
  omega

/-- A rounding carry at the largest exponent reaches 0x7c00 and no further. -/
theorem normalSum_le {x : Single} (h0 : 0x38000000#32 < f2hExp x) (h1 : f2hExp x < 0x47800000#32) :
    (normalSum x).toNat ≤ 0x7c00 := by
  have he := toNat_f2hExp x
  have h1' : (f2hExp x).toNat < 0x47800000 := h1
  rw [toNat_normalSum h0]
  omega

/-- The sign and a magnitude of 15 bits do not overlap. -/
theorem f2hSign_add_eq_or {x m : Single} (hm : m.toNat < 2 ^ 15) : f2hSign x + m = f2hSign x ||| m := by
  have hs := toNat_f2hSign x
  rw [BitVec.toNat_eq, toNat_f2hSign_or hm, BitVec.toNat_add_of_lt (by omega)]

theorem f2hNormal_eq (x : Single) : f2hNormal x = (f2hSign x + normalSum x).extractLsb' 0 16 := by
  simp only [f2hNormal, normalSum, BitVec.add_assoc, BitVec.add_comm 0x1000#32]

/-- Settles O18: the sum has 15 bits, so the sign is added without a carry; its values near the top are those of
`toNat_normalSum`. -/
theorem f2hNormalRounded : Obligations.F2hNormalRounded := by
  unfold Obligations.F2hNormalRounded
  intro x s h0 h1 sum
  have hsum : sum.toNat = (x.toNat / 2 ^ 23 % 2 ^ 8 - 112) * 2 ^ 10 + (x.toNat % 2 ^ 23 + 0x1000) / 2 ^ 13 :=
    toNat_normalSum h0
  have hle : sum.toNat ≤ 0x7c00 := normalSum_le h0 h1
  have hor : f2hSign x + sum = f2hSign x ||| sum := f2hSign_add_eq_or (by omega)
  refine ⟨hle, hor, ?_, ?_, exec_f2h_of_datum ?_ s⟩
  · intro hlow hhigh
    bv_omega
  · intro hlow hhigh
    bv_omega
  · rw [f2h_normal h0 h1, f2hNormal_eq, show normalSum x = sum from rfl, hor, placeHalf_sign_or (by omega), ← hor]
    rfl

end Sys2Proof.Machine
end

section
/-! Both directions (40_half_codec.md R78, R79): NaNs stay NaNs, and the signed zeros and infinities. -/

namespace Sys2Proof.Machine

/-- The half of a NaN has all exponent bits set. -/
theorem f2hNan_exp (x : Single) : f2hNan x &&& 0x7c00#16 = 0x7c00#16 := by
  have hx := toNat_f2hNan x
  have he := toNat_halfExpField (f2hNan x)
  have hp := nanPayload_bounds x
  have hs := toNat_f2hSign x
  rw [BitVec.toNat_eq, he, BitVec.toNat_ofNat]
  omega

/-- The half of a NaN has a non-zero payload. -/
theorem f2hNan_sig (x : Single) : f2hNan x &&& 0x03ff#16 ≠ 0#16 := by
  have hx := toNat_f2hNan x
  have hm := toNat_halfSigField (f2hNan x)
  have hp := nanPayload_bounds x
  have hs := toNat_f2hSign x
  rw [BitVec.toNat_ne, hm, BitVec.toNat_ofNat]
  omega

/-- Settles O22: the NAN case of F2H gives a half NaN, and the INF_OR_NAN case of H2F keeps its payload. -/
theorem nanStaysNan : Obligations.NanStaysNan := by
  unfold Obligations.NanStaysNan
  intro x s t hx
  obtain ⟨he, hm⟩ := (singleIsNan_iff x).1 hx
  have hexp := f2hNan_exp x
  have hsig := f2hNan_sig x
  refine ⟨f2hNan x, h2fInfOrNan (f2hNan x), exec_f2h_of_datum ?_ s, hexp, hsig, exec_h2f_of_datum ?_ t,
    singleIsNan_h2fInfOrNan hsig⟩
  · rw [f2h_nan he hm, placeHalf]
  · rw [h2f_of_exp_allOnes hexp, placeSingle]

/-- Settles O21: the conversions' values at these eight operands. -/
theorem signedZerosAndInfinities : Obligations.SignedZerosAndInfinities := by
  unfold Obligations.SignedZerosAndInfinities
  intro s
  exact ⟨exec_f2h_of_datum (by decide) s, exec_f2h_of_datum (by decide) s, exec_h2f_of_datum (by decide) s,
    exec_h2f_of_datum (by decide) s, exec_f2h_of_datum (by decide) s, exec_f2h_of_datum (by decide) s,
    exec_h2f_of_datum (by decide) s, exec_h2f_of_datum (by decide) s⟩

end Sys2Proof.Machine
end

section
/-! The pure functions of the 64-bit hash (41_hash64.md R82 to R91): the rules' own formulas, the loop over the pairs
of a sequence by index, and what an unpaired last element changes. -/

namespace Sys2Proof.Machine

/-! ## The rules' formulas (R82 to R89), in the rules' order of factors and terms -/

theorem fmix64_eq (k : Word64) : fmix64 k = xorShift33 (xorShift33 (xorShift33 k * FM1) * FM2) := by
  rw [fmix64, BitVec.mul_comm FM1, BitVec.mul_comm FM2]

theorem premix1_eq (k : Word64) : premix1 k = (k * C1).rotateLeft 31 * C2 := by
  rw [premix1, rotl_eq_rotateLeft _ (by decide), BitVec.mul_comm C1, BitVec.mul_comm C2]

theorem premix2_eq (k : Word64) : premix2 k = (k * C2).rotateLeft 33 * C1 := by
  rw [premix2, rotl_eq_rotateLeft _ (by decide), BitVec.mul_comm C2, BitVec.mul_comm C1]

theorem lane1_eq (h1 h2 k : Word64) :
    lane1 h1 h2 k = ((h1 ^^^ premix1 k).rotateLeft 27 + h2) * 5 + C_H1A := by
  rw [lane1, rotl_eq_rotateLeft _ (by decide), BitVec.add_comm C_H1A, BitVec.mul_comm 5]

theorem lane2_eq (c h1 h2 k : Word64) :
    lane2 c h1 h2 k = ((h2 ^^^ premix2 k).rotateLeft 31 + h1) * 5 + c := by
  rw [lane2, rotl_eq_rotateLeft _ (by decide), BitVec.add_comm c, BitVec.mul_comm 5]

/-- Settles O24: products and sums commute, and the model's rotation is the library's; initialisation and
finalisation are the rules' as they stand. -/
theorem hash64Formulas : Obligations.Hash64Formulas := by
  unfold Obligations.Hash64Formulas
  exact ⟨fmix64_eq, premix1_eq, premix2_eq, lane1_eq, lane2_eq, fun _ => rfl, fun _ _ _ => rfl⟩

/-! ## The loop by index (R90) -/

/-- Pair `j` of a sequence is made of its elements `2j` and `2j + 1` (R85). -/
theorem pairsOf_eq_map_range (xs : List Word64) :
    pairsOf xs = (List.range (xs.length / 2)).map fun j => (xs.getD (2 * j) 0, xs.getD (2 * j + 1) 0) := by
  match xs with
  | [] => rfl
  | [_] => simp
  | x :: y :: zs =>
    have hlen : (x :: y :: zs).length / 2 = zs.length / 2 + 1 := by simp only [List.length_cons]; omega
    rw [pairsOf_pair, pairsOf_eq_map_range zs, hlen, List.range_succ_eq_map, List.map_cons, List.map_map]
    rfl

/-- The rounds of a sequence are the loop over the indices of its pairs. -/
theorem pairRounds_eq_foldl_range (c : Word64) (h : Word64 × Word64) (xs : List Word64) :
    pairRounds c h xs = (List.range (xs.length / 2)).foldl
      (fun h j => pairRound c h (xs.getD (2 * j) 0) (xs.getD (2 * j + 1) 0)) h := by
  rw [pairRounds, pairsOf_eq_map_range, List.foldl_map]

/-- Settles O27: the pairs of the model's recursion, two elements at a time, are those the loop indexes. -/
theorem hash64IndexedLoop : Obligations.Hash64IndexedLoop := by
  unfold Obligations.Hash64IndexedLoop
  intro c xs n h
  have hloop : pairRounds c (init64 n) xs = h := pairRounds_eq_foldl_range c (init64 n) xs
  rw [← hloop]
  rfl

/-! ## An unpaired last element (R91) -/

/-- After an even number of elements one more is counted, and no round sees it. -/
theorem seqHash64_append_single (c : Word64) {xs : List Word64} (hx : xs.length % 2 = 0) (x : Word64) :
    let n : Word64 := BitVec.ofNat 64 (xs.length + 1)
    let h := pairRounds c (init64 n) xs
    seqHash64 c (xs ++ [x]) = fin64 h.1 h.2 n := by
  simp only [seqHash64, pairRounds_append_single c _ xs x hx, List.length_append, List.length_singleton]

/-- Settles O29: the hash with either last element is the same expression in the count and the whole pairs. -/
theorem oddElementDropped : Obligations.OddElementDropped := by
  unfold Obligations.OddElementDropped
  intro c v w xs hx
  have hv := seqHash64_append_single c hx v
  have hw := seqHash64_append_single c hx w
  exact ⟨hv.trans hw.symm, hv⟩

end Sys2Proof.Machine
end

section
/-! HINIT and HPUSH (41_hash64.md R92, R93): what each branch of the two commands does to the state. -/

namespace Sys2Proof.Machine

/-- The 64-bit unit that answers DATA as it goes idle keeps everything but its own registers. -/
theorem wentIdle64_respond (v : Word64) (s : State) :
    WentIdle64 s (respond .data v (goIdle64 s)) { rtype := .data, rdata := v } :=
  ⟨rfl, rfl, rfl, rfl, rfl, rfl, rfl, rfl⟩

/-! ## HINIT (R92) -/

theorem exec_hinit_zero (s : State) : exec (.hinit 0) s = .next (respond .data (fin64 C1 C2 0) (goIdle64 s)) := rfl

theorem exec_hinit_open {n : Word64} (hn : n ≠ 0) (s : State) :
    exec (.hinit n) s = .next (respond .ack 0 (open64 n s)) :=
  if_neg hn

/-- The hash of the empty sequence, for either value of C_H2B. -/
theorem fin64_empty : fin64 C1 C2 0 = 0x68d1653a81dff25b#64 := by decide

/-- Settles O32: the two branches of HINIT, by whether the count is zero. -/
theorem hinitOpensOrAnswersEmpty : Obligations.HinitOpensOrAnswersEmpty := by
  unfold Obligations.HinitOpensOrAnswersEmpty
  constructor
  · intro data
    obtain ⟨-, -, hinit, -⟩ := operandExtraction .w64 data
    exact hinit
  · intro n s
    constructor
    · intro hn
      exact exec_hinit_open hn s
    · rintro rfl
      exact ⟨_, exec_hinit_zero s, wentIdle64_respond _ s, fin64_empty⟩

/-! ## HPUSH (R93) -/

section
variable (k : Word64) {s : State}

/-- No sequence is open. -/
theorem exec_hpush_idle (ha : s.act = false) : exec (.hpush k) s = .next (respond .err 2 s) := if_pos ha

/-- The last element has an even index: it has no partner and is dropped. -/
theorem exec_hpush_drop (ha : s.act = true) (hp : s.ph = false) (hr : s.rem = 1) :
    exec (.hpush k) s = .next (respond .data (fin64 s.h1 s.h2 s.cnt) (goIdle64 s)) := by
  simp only [exec, execHpush, ha, hp, hr, reduceCtorEq, if_true, if_false, answerAck_eq]

/-- An element of even index that is not the last waits for its partner. -/
theorem exec_hpush_hold (ha : s.act = true) (hp : s.ph = false) (hr : s.rem ≠ 1) :
    exec (.hpush k) s = .next (respond .ack 0 (hold64 k s)) := by
  simp only [exec, execHpush, ha, hp, hr, reduceCtorEq, if_true, if_false, answerAck_eq]

/-- The element completes the last pair. -/
theorem exec_hpush_lastPair (ha : s.act = true) (hp : s.ph = true) (hr : s.rem = 1) :
    exec (.hpush k) s = .next (respond .data (fin64 (pairRound s.cfg.cH2B (s.h1, s.h2) s.kh k).1
      (pairRound s.cfg.cH2B (s.h1, s.h2) s.kh k).2 s.cnt) (goIdle64 s)) := by
  simp only [exec, execHpush, ha, hp, hr, reduceCtorEq, if_true, if_false, answerAck_eq]

/-- The element completes a pair that is not the last. -/
theorem exec_hpush_pair (ha : s.act = true) (hp : s.ph = true) (hr : s.rem ≠ 1) :
    exec (.hpush k) s = .next (respond .ack 0 (mixed64 (pairRound s.cfg.cH2B (s.h1, s.h2) s.kh k) s)) := by
  simp only [exec, execHpush, ha, hp, hr, reduceCtorEq, if_false, answerAck_eq]

end

/-- Settles O33: one lemma for each branch of HPUSH; the pair round is lane 1 and then lane 2 on its result. -/
theorem hpushEveryBranch : Obligations.HpushEveryBranch := by
  unfold Obligations.HpushEveryBranch
  constructor
  · intro data
    obtain ⟨-, -, -, hpush⟩ := operandExtraction .w64 data
    exact hpush
  · intro k s a b
    exact ⟨exec_hpush_idle k,
      fun ha hp hr => ⟨_, exec_hpush_drop k ha hp hr, wentIdle64_respond _ s⟩,
      exec_hpush_hold k,
      fun ha hp hr => ⟨_, exec_hpush_lastPair k ha hp hr, wentIdle64_respond _ s⟩,
      exec_hpush_pair k⟩

end Sys2Proof.Machine
end

section
/-! The pure functions of the 32-bit hash (42_hash32_variant.md R99 to R104): the rules' own formulas, and the loop over
the elements of a sequence by index. -/

namespace Sys2Proof.Machine

/-! ## The rules' formulas (R99 to R103), in the rules' order of factors and terms -/

theorem fmix32_eq (h : Word32) :
    fmix32 h =
      let a := (h ^^^ (h >>> 16)) * 0x85ebca6b#32
      let b := (a ^^^ (a >>> 13)) * 0xc2b2ae35#32
      b ^^^ (b >>> 16) := by
  rw [fmix32, BitVec.mul_comm 0x85ebca6b#32, BitVec.mul_comm 0xc2b2ae35#32]

theorem premix32_eq (k : Word32) : premix32 k = (k * C1_32).rotateLeft 15 * C2_32 := by
  rw [premix32, rotl_eq_rotateLeft _ (by decide), BitVec.mul_comm C1_32, BitVec.mul_comm C2_32]

theorem round32_eq (h k : Word32) :
    round32 h k = (h ^^^ premix32 k).rotateLeft 13 * 5 + 0xe6546b64#32 := by
  rw [round32, rotl_eq_rotateLeft _ (by decide), BitVec.add_comm 0xe6546b64#32, BitVec.mul_comm 5]

/-- Settles O25: products and sums commute, and the model's rotation is the library's; initialisation and
finalisation are the rules' as they stand. -/
theorem hash32Formulas : Obligations.Hash32Formulas := by
  unfold Obligations.Hash32Formulas
  exact ⟨fmix32_eq, premix32_eq, round32_eq, fun _ => rfl, fun _ _ => rfl⟩

/-! ## The loop by index (R104) -/

/-- A sequence is its elements by index, in order. -/
theorem eq_map_range_getD (xs : List Word32) : xs = (List.range xs.length).map (xs.getD · 0) := by
  apply List.ext_getElem
  · simp
  · intro i hi _
    simp [hi]

/-- The rounds of a sequence are the loop over the indices of its elements. -/
theorem foldl_round32_eq_foldl_range (h : Word32) (xs : List Word32) :
    xs.foldl round32 h = (List.range xs.length).foldl (fun h i => round32 h (xs.getD i 0)) h := by
  conv_lhs => rw [eq_map_range_getD xs, List.foldl_map]

/-- Settles O28: the elements the model folds over, one round for each, are those the loop indexes. -/
theorem hash32IndexedLoop : Obligations.Hash32IndexedLoop := by
  unfold Obligations.Hash32IndexedLoop
  intro xs n
  rw [seqHash32, foldl_round32_eq_foldl_range]

end Sys2Proof.Machine
end

section
/-! HINIT and HPUSH of a HASH_WIDTH = 32 build (42_hash32_variant.md R105, R106): the operands that opcodes 4 and 5 take
there, and what each branch of the two commands does to the state. -/

namespace Sys2Proof

/-! ## Decoding opcodes 4 and 5 in a 32-bit build -/

theorem decode_hinit32 {w : CommandWord} (h : opField w = 0x4#4) :
    decode .w32 w = .instr (.hinit32 ((dataField w).extractLsb' 0 32)) := by
  simp [decode, h]

theorem decode_hpush32 {w : CommandWord} (h : opField w = 0x5#4) :
    decode .w32 w = .instr (.hpush32 ((dataField w).extractLsb' 0 32)) := by
  simp [decode, h]

/-- The operand cut out of a command word is the low half of its `data`, the high half ignored. -/
theorem extract32_dataField_commandWord (op : BitVec 4) (data : Word64) :
    (dataField (commandWord op data)).extractLsb' 0 32 = data.setWidth 32 := by
  rw [Laws.dataField_commandWord, BitVec.setWidth_eq_extractLsb' (by decide)]

end Sys2Proof

namespace Sys2Proof.Machine

/-- The 32-bit unit that answers DATA as it goes idle keeps everything but its own registers. -/
theorem wentIdle32_respond (v : Word64) (s : State) :
    WentIdle32 s (respond .data v (goIdle32 s)) { rtype := .data, rdata := v } :=
  ⟨rfl, rfl, rfl, rfl, rfl, rfl, rfl, rfl, rfl, rfl⟩

/-! ## HINIT (R105) -/

theorem exec_hinit32_zero (s : State) :
    exec (.hinit32 0) s = .next (respond .data (placeSingle (fin32 C1_32 0)) (goIdle32 s)) := rfl

theorem exec_hinit32_open {n : Word32} (hn : n ≠ 0) (s : State) :
    exec (.hinit32 n) s = .next (respond .ack 0 (open32 n s)) :=
  if_neg hn

/-- The datum that answers the empty sequence. -/
theorem placeSingle_fin32_empty : placeSingle (fin32 C1_32 0) = 0x67035893#64 := by decide

/-- Settles O34: the two branches of HINIT, by whether the count is zero. -/
theorem hinit32OpensOrAnswersEmpty : Obligations.Hinit32OpensOrAnswersEmpty := by
  unfold Obligations.Hinit32OpensOrAnswersEmpty
  constructor
  · intro data
    change decode .w32 (commandWord 0x4#4 data) = _
    rw [decode_hinit32 (Laws.opField_commandWord _ data), extract32_dataField_commandWord]
  · intro n s
    constructor
    · intro hn
      exact exec_hinit32_open hn s
    · rintro rfl
      exact ⟨_, exec_hinit32_zero s, wentIdle32_respond _ s, placeSingle_fin32_empty⟩

/-! ## HPUSH (R106) -/

section
variable (k : Word32) {s : State}

/-- No sequence is open. -/
theorem exec_hpush32_idle (ha : s.act = false) : exec (.hpush32 k) s = .next (respond .err 2 s) := if_pos ha

/-- The last element is mixed like every other, and the hash is answered. -/
theorem exec_hpush32_last (ha : s.act = true) (hr : s.rem_32 = 1) :
    exec (.hpush32 k) s =
      .next (respond .data (placeSingle (fin32 (round32 s.h1_32 k) s.cnt_32)) (goIdle32 s)) := by
  simp only [exec, execHpush32, ha, hr, reduceCtorEq, if_true, if_false]

/-- The element is not the last. -/
theorem exec_hpush32_mix (ha : s.act = true) (hr : s.rem_32 ≠ 1) :
    exec (.hpush32 k) s = .next (respond .ack 0 (mixed32 (round32 s.h1_32 k) s)) := by
  simp only [exec, execHpush32, ha, hr, reduceCtorEq, if_false, answerAck_eq]

end

/-- Settles O35: one lemma for each branch of HPUSH; `placeSingle` is the zero-extension of the datum. -/
theorem hpush32EveryBranch : Obligations.Hpush32EveryBranch := by
  unfold Obligations.Hpush32EveryBranch
  constructor
  · intro data
    change decode .w32 (commandWord 0x5#4 data) = _
    rw [decode_hpush32 (Laws.opField_commandWord _ data), extract32_dataField_commandWord]
  · intro k s h
    exact ⟨exec_hpush32_idle k,
      fun ha hr => ⟨_, exec_hpush32_last k ha hr, wentIdle32_respond _ s⟩,
      exec_hpush32_mix k⟩

end Sys2Proof.Machine
end

section
/-! Exceptions and error responses (60_exceptions.md R109, R110): no step and no command stops the block, and an ERR
response has one of two causes and leaves every register as it was. -/

namespace Sys2Proof

/-! ## The `op` field behind a decoded word -/

/-- A word that decodes to a command carries that command's opcode. -/
theorem opField_of_decode_instr {hw : HashWidth} {w : CommandWord} {i : Instr} (h : decode hw w = .instr i) :
    opField w = i.opcode := by
  unfold decode at h
  split at h
  · next hop => cases h; exact hop
  · split at h
    · next hop => cases h; exact hop
    · split at h
      · next hop => cases hw <;> cases h <;> exact hop
      · split at h
        · next hop => cases hw <;> cases h <;> exact hop
        · cases h

/-- An `op` that R47 does not assign is reserved. -/
theorem reservedOp_of_not_assigned {op : BitVec 4} (h1 : op ≠ 0x1#4) (h2 : op ≠ 0x2#4) (h4 : op ≠ 0x4#4)
    (h5 : op ≠ 0x5#4) : ReservedOp op := by
  unfold ReservedOp
  bv_omega

/-- Only a word with a reserved `op` decodes to `.reserved`: each assigned one decodes to a command. -/
theorem reservedOp_of_decode_reserved {hw : HashWidth} {w : CommandWord} {op : BitVec 4}
    (h : decode hw w = .reserved op) : ReservedOp (opField w) := by
  apply reservedOp_of_not_assigned <;> intro hop
  · simp [decode_h2f hop] at h
  · simp [decode_f2h hop] at h
  · cases hw with
    | w64 => simp [decode_hinit hop] at h
    | w32 => simp [decode_hinit32 hop] at h
  · cases hw with
    | w64 => simp [decode_hpush hop] at h
    | w32 => simp [decode_hpush32 hop] at h

end Sys2Proof

namespace Sys2Proof.Machine

/-! ## Nothing stops the block (R109) -/

theorem step_completes (s : State) : ∃ t, step s = .next t := by
  unfold step
  cases acceptNext s with
  | settled t => exact ⟨t, rfl⟩
  | run i t => exact exec_completes i t

/-- Settles O43: the port either settles the state itself or runs a command, and every command completes. -/
theorem nothingEverStops : Obligations.NothingEverStops := by
  unfold Obligations.NothingEverStops
  exact ⟨step_completes, exec_completes⟩

/-! ## Who answers ERR (R110) -/

/-- From `s` to `t` the responses have grown by one ERR with code `v`. -/
def AnsweredErr (v : Word64) (s t : State) : Prop := t.rsps = s.rsps ++ [{ rtype := .err, rdata := v }]

section
variable {v x : Word64} {s t u : State}

theorem not_answeredErr_of_rsps_eq (h : t.rsps = s.rsps) : ¬ AnsweredErr v s t := by
  simp [AnsweredErr, h]

/-- The one response given since `s` is the one that `AnsweredErr` speaks of. -/
theorem answeredErr_respond_iff {ty : RType} (hu : u.rsps = s.rsps) :
    AnsweredErr v s (respond ty x u) ↔ ty = .err ∧ x = v := by
  simp [AnsweredErr, hu]

theorem not_answeredErr_data (hu : u.rsps = s.rsps) : ¬ AnsweredErr v s (respond .data x u) := by
  simp [answeredErr_respond_iff hu]

theorem not_answeredErr_ack (hu : u.rsps = s.rsps) : ¬ AnsweredErr v s (respond .ack x u) := by
  simp [answeredErr_respond_iff hu]

theorem execHinit_not_answeredErr {n : Word64} (h : execHinit n s = .next t) : ¬ AnsweredErr v s t := by
  obtain ⟨-, rfl⟩ | ⟨-, rfl⟩ := execHinit_cases h
  · exact not_answeredErr_data (goIdle64_rsps s)
  · exact not_answeredErr_ack (open64_rsps n s)

theorem execHinit32_not_answeredErr {n : Word32} (h : execHinit32 n s = .next t) : ¬ AnsweredErr v s t := by
  obtain ⟨-, rfl⟩ | ⟨-, rfl⟩ := execHinit32_cases h
  · exact not_answeredErr_data (goIdle32_rsps s)
  · exact not_answeredErr_ack (open32_rsps n s)

/-- HPUSH answers ERR only with no sequence open: each other branch ends in DATA or ACK. -/
theorem execHpush_answeredErr {k : Word64} (h : execHpush k s = .next t) (he : AnsweredErr v s t) :
    s.act = false ∧ t = respond .err 2 s := by
  obtain herr | ⟨-, -, -, rfl⟩ | ⟨-, -, -, rfl⟩ | ⟨-, -, -, rfl⟩ | ⟨-, -, -, rfl⟩ := execHpush_cases h
  · exact herr
  · exact absurd he (not_answeredErr_data (goIdle64_rsps s))
  · exact absurd he (not_answeredErr_ack (hold64_rsps k s))
  · exact absurd he (not_answeredErr_data (goIdle64_rsps s))
  · exact absurd he (not_answeredErr_ack (mixed64_rsps _ s))

theorem execHpush32_answeredErr {k : Word32} (h : execHpush32 k s = .next t) (he : AnsweredErr v s t) :
    s.act = false ∧ t = respond .err 2 s := by
  obtain herr | ⟨-, -, rfl⟩ | ⟨-, -, rfl⟩ := execHpush32_cases h
  · exact herr
  · exact absurd he (not_answeredErr_data (goIdle32_rsps s))
  · exact absurd he (not_answeredErr_ack (mixed32_rsps _ s))

/-- The only command that answers ERR is the HPUSH of either build, and only with no sequence open. -/
theorem exec_answeredErr {i : Instr} (h : exec i s = .next t) (he : AnsweredErr v s t) :
    i.opcode = 0x5#4 ∧ s.act = false ∧ t = respond .err 2 s := by
  cases i with
  | h2f i => rw [execH2f_cases h] at he; exact absurd he (not_answeredErr_data rfl)
  | f2h x => rw [execF2h_cases h] at he; exact absurd he (not_answeredErr_data rfl)
  | hinit n => exact absurd he (execHinit_not_answeredErr h)
  | hpush k => exact ⟨rfl, execHpush_answeredErr h he⟩
  | hinit32 n => exact absurd he (execHinit32_not_answeredErr h)
  | hpush32 k => exact ⟨rfl, execHpush32_answeredErr h he⟩

/-! ## The two errors of a step -/

/-- A step that answers ERR took a command word, did nothing else, and the code names the cause. -/
theorem step_answeredErr (h : step s = .next t) (he : AnsweredErr v s t) :
    ∃ w rest, s.input = .command w :: rest ∧ t = respond .err v (withInput rest s) ∧
      ((v = 1 ∧ ReservedOp (opField w)) ∨ (v = 2 ∧ opField w = 0x5#4 ∧ s.act = false)) := by
  obtain ⟨-, rfl⟩ | ⟨rest, -, rfl⟩ | ⟨w, rest, -, -, rfl⟩ | ⟨w, rest, op, hi, hd, rfl⟩ |
    ⟨w, rest, i, hi, hd, hx⟩ := step_cases h
  · exact absurd he (not_answeredErr_of_rsps_eq rfl)
  · exact absurd he (not_answeredErr_of_rsps_eq (applyReset_rsps _))
  · exact absurd he (not_answeredErr_of_rsps_eq (dropCommand_rsps _))
  · obtain ⟨-, rfl⟩ := (answeredErr_respond_iff rfl).mp he
    exact ⟨w, rest, hi, rfl, .inl ⟨rfl, reservedOp_of_decode_reserved hd⟩⟩
  · obtain ⟨hop, ha, rfl⟩ := exec_answeredErr hx he
    obtain ⟨-, rfl⟩ := (answeredErr_respond_iff rfl).mp he
    exact ⟨w, rest, hi, rfl, .inr ⟨rfl, (opField_of_decode_instr hd).trans hop, ha⟩⟩

/-- Taking a word off the port and answering it touches no register (60_exceptions.md R113). -/
theorem sameRegisters_respond_withInput (ty : RType) (v : Word64) (rest : List HostAction) (s : State) :
    SameRegisters s (respond ty v (withInput rest s)) :=
  ⟨rfl, rfl, rfl, rfl, rfl, rfl, rfl, rfl, rfl, rfl, rfl⟩

end

/-- Settles O41: of all a step can do, only the answers to a reserved word and to an HPUSH with no sequence open are
ERR, and either is a bare response. -/
theorem errorsOnlyTwoAndHarmless : Obligations.ErrorsOnlyTwoAndHarmless := by
  unfold Obligations.ErrorsOnlyTwoAndHarmless
  intro s t v h he
  obtain ⟨w, rest, hi, rfl, hcause⟩ := step_answeredErr h he
  exact ⟨sameRegisters_respond_withInput _ _ _ _, w, hi, hcause⟩

end Sys2Proof.Machine
end

section
/-! Reset (70_reset_and_hazards.md R119, R120): what it leaves behind, and what becomes of a command that it directly
follows. -/

namespace Sys2Proof.Machine

/-! ## The reset event (R119) -/

/-- In a 64-bit build no element is held after a reset. -/
theorem applyReset_ph {s : State} (h : s.cfg.hashWidth = .w64) : (applyReset s).ph = false := by
  rw [applyReset_w64 h, goIdle64_ph]

/-- Settles O46: a step with a reset next applies `applyReset` to the state with the reset taken off the port. -/
theorem resetMakesIdle : Obligations.ResetMakesIdle := by
  unfold Obligations.ResetMakesIdle
  intro s rest hi
  exact ⟨_, step_reset hi, applyReset_input _, applyReset_rsps _, applyReset_cfg _, applyReset_act _,
    fun hw => applyReset_ph hw⟩

/-! ## No command reads the port

What a command does is the same whatever the host still has to say: `exec` commutes with `withInput`. -/

section
variable {s t : State} (l : List HostAction)

theorem exec_hinit_withInput {n : Word64} (h : execHinit n s = .next t) :
    exec (.hinit n) (withInput l s) = .next (withInput l t) := by
  obtain ⟨rfl, rfl⟩ | ⟨hn, rfl⟩ := execHinit_cases h
  · exact exec_hinit_zero _
  · exact exec_hinit_open hn _

theorem exec_hpush_withInput {k : Word64} (h : execHpush k s = .next t) :
    exec (.hpush k) (withInput l s) = .next (withInput l t) := by
  obtain ⟨ha, rfl⟩ | ⟨ha, hp, hr, rfl⟩ | ⟨ha, hp, hr, rfl⟩ | ⟨ha, hp, hr, rfl⟩ | ⟨ha, hp, hr, rfl⟩ :=
    execHpush_cases h
  · exact exec_hpush_idle k (s := withInput l s) ha
  · exact exec_hpush_drop k (s := withInput l s) ha hp hr
  · exact exec_hpush_hold k (s := withInput l s) ha hp hr
  · exact exec_hpush_lastPair k (s := withInput l s) ha hp hr
  · exact exec_hpush_pair k (s := withInput l s) ha hp hr

theorem exec_hinit32_withInput {n : Word32} (h : execHinit32 n s = .next t) :
    exec (.hinit32 n) (withInput l s) = .next (withInput l t) := by
  obtain ⟨rfl, rfl⟩ | ⟨hn, rfl⟩ := execHinit32_cases h
  · exact exec_hinit32_zero _
  · exact exec_hinit32_open hn _

theorem exec_hpush32_withInput {k : Word32} (h : execHpush32 k s = .next t) :
    exec (.hpush32 k) (withInput l s) = .next (withInput l t) := by
  obtain ⟨ha, rfl⟩ | ⟨ha, hr, rfl⟩ | ⟨ha, hr, rfl⟩ := execHpush32_cases h
  · exact exec_hpush32_idle k (s := withInput l s) ha
  · exact exec_hpush32_last k (s := withInput l s) ha hr
  · exact exec_hpush32_mix k (s := withInput l s) ha hr

theorem exec_withInput {i : Instr} (h : exec i s = .next t) : exec i (withInput l s) = .next (withInput l t) := by
  cases i with
  | h2f i => rw [execH2f_cases h]; exact exec_h2f i _
  | f2h x => rw [execF2h_cases h]; exact exec_f2h x _
  | hinit n => exact exec_hinit_withInput l h
  | hpush k => exact exec_hpush_withInput l h
  | hinit32 n => exact exec_hinit32_withInput l h
  | hpush32 k => exact exec_hpush32_withInput l h

end

/-! ## No step changes the build -/

section
variable {s t : State}

theorem execHinit_cfg {n : Word64} (h : execHinit n s = .next t) : t.cfg = s.cfg := by
  obtain ⟨-, rfl⟩ | ⟨-, rfl⟩ := execHinit_cases h <;> simp

theorem execHpush_cfg {k : Word64} (h : execHpush k s = .next t) : t.cfg = s.cfg := by
  obtain ⟨-, rfl⟩ | ⟨-, -, -, rfl⟩ | ⟨-, -, -, rfl⟩ | ⟨-, -, -, rfl⟩ | ⟨-, -, -, rfl⟩ := execHpush_cases h <;> simp

theorem execHinit32_cfg {n : Word32} (h : execHinit32 n s = .next t) : t.cfg = s.cfg := by
  obtain ⟨-, rfl⟩ | ⟨-, rfl⟩ := execHinit32_cases h <;> simp

theorem execHpush32_cfg {k : Word32} (h : execHpush32 k s = .next t) : t.cfg = s.cfg := by
  obtain ⟨-, rfl⟩ | ⟨-, -, rfl⟩ | ⟨-, -, rfl⟩ := execHpush32_cases h <;> simp

theorem exec_cfg {i : Instr} (h : exec i s = .next t) : t.cfg = s.cfg := by
  cases i with
  | h2f i => rw [execH2f_cases h, respond_cfg]
  | f2h x => rw [execF2h_cases h, respond_cfg]
  | hinit n => exact execHinit_cfg h
  | hpush k => exact execHpush_cfg h
  | hinit32 n => exact execHinit32_cfg h
  | hpush32 k => exact execHpush32_cfg h

theorem step_cfg (h : step s = .next t) : t.cfg = s.cfg := by
  obtain ⟨-, rfl⟩ | ⟨rest, -, rfl⟩ | ⟨w, rest, -, -, rfl⟩ | ⟨w, rest, op, -, -, rfl⟩ | ⟨w, rest, i, -, -, hx⟩ :=
    step_cases h
  · rfl
  · exact applyReset_cfg _
  · exact dropCommand_cfg _
  · exact respond_cfg _ _ _
  · exact exec_cfg (s := withInput rest s) hx

end

/-! ## A command directly before a reset (R120) -/

/-- A command word is taken off the port, and either it is dropped or the step is the one that the word causes with
any other actions behind it that do not begin with a reset. -/
theorem step_command_dropped_or_runs {s t : State} {w : CommandWord} {rest : List HostAction}
    (hi : s.input = .command w :: rest) (h : step s = .next t) :
    t.input = rest ∧ (t = dropCommand (withInput rest s) ∨ ∀ l, resetFollows l = false →
      step (withInput (.command w :: l) s) = .next (withInput l t)) := by
  obtain ⟨hi', -⟩ | ⟨_, hi', -⟩ | ⟨w', rest', hi', -, rfl⟩ | ⟨w', rest', op, hi', hd, rfl⟩ |
    ⟨w', rest', i, hi', hd, hx⟩ := step_cases h <;> cases hi.symm.trans hi'
  · exact ⟨dropCommand_input _, .inl rfl⟩
  · exact ⟨respond_input _ _ _, .inr fun l hl => step_reserved (withInput_input _ s) hl hd⟩
  · have hrun (l : List HostAction) : exec i (withInput l s) = .next (withInput l t) :=
      exec_withInput (s := withInput rest s) l hx
    exact ⟨(exec_answeredOnce hx).1, .inr fun l hl => (step_instr (withInput_input _ s) hl hd).trans (hrun l)⟩

/-- Settles O48: the first step drops the command or runs it as it would with no reset behind it; the second is the
reset, which leaves the responses alone. -/
theorem commandBeforeReset : Obligations.CommandBeforeReset := by
  unfold Obligations.CommandBeforeReset
  intro s w rest hi
  obtain ⟨t, ht⟩ := step_completes s
  obtain ⟨hin, houtcome⟩ := step_command_dropped_or_runs hi ht
  obtain ⟨u, hu, huin, hursps, -, huact, huph⟩ := resetMakesIdle t rest hin
  refine ⟨t, u, ht, hu, huact, huin, fun hw => huph (step_cfg ht ▸ hw), ?_⟩
  rw [hursps]
  obtain rfl | hrun := houtcome
  · exact .inl (dropCommand_rsps _)
  · exact .inr ⟨_, hrun [] rfl, rfl⟩

end Sys2Proof.Machine
end

section
/-! Decode and encode agree (30_encoding.md R45 to R55): which words select a command, and which are reserved. -/

namespace Sys2Proof

/-! ## A command word is its two fields -/

theorem commandWord_fields (w : CommandWord) : commandWord (opField w) (dataField w) = w := by
  ext i hi
  rw [← BitVec.getLsbD_eq_getElem, ← BitVec.getLsbD_eq_getElem, Laws.getLsbD_commandWord]
  split
  · next h => simp [dataField, h]
  · next h =>
    rw [opField, BitVec.getLsbD_extractLsb', Nat.add_sub_cancel' (by omega)]
    simp [show i - 64 < 4 by omega]

theorem commandWord_inj {op op' : BitVec 4} {d d' : Word64} :
    commandWord op d = commandWord op' d' ↔ op = op' ∧ d = d' := by
  constructor
  · intro h
    have hop := congrArg opField h
    have hd := congrArg dataField h
    rw [Laws.opField_commandWord, Laws.opField_commandWord] at hop
    rw [Laws.dataField_commandWord, Laws.dataField_commandWord] at hd
    exact ⟨hop, hd⟩
  · rintro ⟨rfl, rfl⟩
    rfl

theorem commandWord_and (op op' : BitVec 4) (d d' : Word64) :
    commandWord op d &&& commandWord op' d' = commandWord (op &&& op') (d &&& d') :=
  BitVec.and_append

/-! ## The operand bits of `data` (R48) -/

/-- How many bits of `data`, from bit 0 on, the command reads. -/
def Instr.operandWidth : Instr → Nat
  | .h2f _ => 16
  | .f2h _ | .hinit32 _ | .hpush32 _ => 32
  | .hinit _ | .hpush _ => 64

/-- The bits of `data` that the command reads. -/
def Instr.operandBits (i : Instr) : Word64 := BitVec.ofNat 64 (2 ^ i.operandWidth - 1)

theorem usedBits_eq (i : Instr) : i.usedBits = commandWord (BitVec.allOnes 4) i.operandBits := by
  cases i <;> simp only [Instr.usedBits, Instr.operandBits, Instr.operandWidth] <;> decide

/-- `op` is used whole, `data` in the operand bits. -/
theorem and_usedBits (w : CommandWord) (i : Instr) :
    w &&& i.usedBits = commandWord (opField w) (dataField w &&& i.operandBits) := by
  conv_lhs => rw [usedBits_eq, ← commandWord_fields w]
  rw [commandWord_and, BitVec.and_allOnes]

theorem toNat_and_operandBits (d : Word64) (i : Instr) :
    (d &&& i.operandBits).toNat = d.toNat % 2 ^ i.operandWidth := by
  have hmask : i.operandBits.toNat = 2 ^ i.operandWidth - 1 := by cases i <;> rfl
  rw [BitVec.toNat_and, hmask, Nat.and_two_pow_sub_one_eq_mod]

theorem toNat_data_lt (i : Instr) : i.data.toNat < 2 ^ i.operandWidth := by
  cases i with
  | h2f x => exact (BitVec.toNat_setWidth_of_le (by decide)).trans_lt x.isLt
  | f2h x => exact (BitVec.toNat_setWidth_of_le (by decide)).trans_lt x.isLt
  | hinit n => exact n.isLt
  | hpush k => exact k.isLt
  | hinit32 n => exact (BitVec.toNat_setWidth_of_le (by decide)).trans_lt n.isLt
  | hpush32 k => exact (BitVec.toNat_setWidth_of_le (by decide)).trans_lt k.isLt

/-- An operand reaches no further than the operand bits. -/
theorem data_and_operandBits (i : Instr) : i.data &&& i.operandBits = i.data := by
  rw [BitVec.toNat_eq, toNat_and_operandBits, Nat.mod_eq_of_lt (toNat_data_lt i)]

/-- The lowest `k` bits are `x` exactly when the remainder modulo `2^k` is the widened `x`. -/
theorem extract_eq_iff {k : Nat} (d : Word64) (x : BitVec k) (hk : k ≤ 64) :
    d.extractLsb' 0 k = x ↔ d.toNat % 2 ^ k = (x.setWidth 64).toNat := by
  rw [BitVec.toNat_eq, BitVec.extractLsb'_toNat, BitVec.toNat_setWidth_of_le hk, Nat.shiftRight_zero]

/-- With the command's `op`, in a build that has the command, the operand bits alone decide. -/
theorem decode_eq_instr_iff_operand {hw : HashWidth} {w : CommandWord} {i : Instr} (hwf : i.wellFormed hw = true)
    (hop : opField w = i.opcode) : decode hw w = .instr i ↔ dataField w &&& i.operandBits = i.data := by
  have hwhole : (dataField w).toNat % 2 ^ 64 = (dataField w).toNat := Nat.mod_eq_of_lt (dataField w).isLt
  rw [BitVec.toNat_eq, toNat_and_operandBits]
  cases i with
  | h2f x =>
    rw [decode_h2f hop, Command.instr.injEq, Instr.h2f.injEq]
    exact extract_eq_iff (dataField w) x (by decide)
  | f2h x =>
    rw [decode_f2h hop, Command.instr.injEq, Instr.f2h.injEq]
    exact extract_eq_iff (dataField w) x (by decide)
  | hinit n =>
    obtain rfl : hw = .w64 := eq_of_beq hwf
    rw [decode_hinit hop, Command.instr.injEq, Instr.hinit.injEq, Instr.operandWidth, hwhole]
    exact BitVec.toNat_eq
  | hpush k =>
    obtain rfl : hw = .w64 := eq_of_beq hwf
    rw [decode_hpush hop, Command.instr.injEq, Instr.hpush.injEq, Instr.operandWidth, hwhole]
    exact BitVec.toNat_eq
  | hinit32 n =>
    obtain rfl : hw = .w32 := eq_of_beq hwf
    rw [decode_hinit32 hop, Command.instr.injEq, Instr.hinit32.injEq]
    exact extract_eq_iff (dataField w) n (by decide)
  | hpush32 k =>
    obtain rfl : hw = .w32 := eq_of_beq hwf
    rw [decode_hpush32 hop, Command.instr.injEq, Instr.hpush32.injEq]
    exact extract_eq_iff (dataField w) k (by decide)

/-! ## Decode and encode -/

/-- Settles O2: a word that decodes to a command has its `op`, and then the operand bits alone decide. -/
theorem decodeExactlyByUsedBits : Obligations.DecodeExactlyByUsedBits := by
  unfold Obligations.DecodeExactlyByUsedBits
  intro hw w i
  rw [and_usedBits, encode, commandWord_inj]
  constructor
  · intro h
    have hwf := Laws.decode_wellFormed h
    have hop := opField_of_decode_instr h
    exact ⟨hwf, hop, (decode_eq_instr_iff_operand hwf hop).1 h⟩
  · rintro ⟨hwf, hop, hd⟩
    exact (decode_eq_instr_iff_operand hwf hop).2 hd

/-- Settles O1: the encoding agrees with itself on the used bits, so it decodes to its command. -/
theorem decodeInvertsEncode : Obligations.DecodeInvertsEncode := by
  unfold Obligations.DecodeInvertsEncode
  intro hw i hwf
  have hop : opField (encode i) = i.opcode := Laws.opField_commandWord _ _
  have hdata : dataField (encode i) = i.data := Laws.dataField_commandWord _ _
  rw [decode_eq_instr_iff_operand hwf hop, hdata, data_and_operandBits]

/-- What stands behind `.reserved` is the word's `op` field. -/
theorem opField_of_decode_reserved {hw : HashWidth} {w : CommandWord} {op : BitVec 4}
    (h : decode hw w = .reserved op) : opField w = op := by
  have hop : decode hw w = .reserved (opField w) := decode_reserved (reservedOp_of_decode_reserved h)
  exact Command.reserved.inj (hop.symm.trans h)

/-- Settles O3: each assigned `op` decodes to a command, and every other one to `.reserved`. -/
theorem reservedOpcodesExactly : Obligations.ReservedOpcodesExactly := by
  unfold Obligations.ReservedOpcodesExactly
  intro hw w op
  constructor
  · intro h
    have hop := opField_of_decode_reserved h
    exact ⟨hop, hop ▸ reservedOp_of_decode_reserved h⟩
  · rintro ⟨rfl, hres⟩
    exact decode_reserved hres

/-- Settles O5: the eight words and responses of R55, evaluated. -/
theorem workedEncodings : Obligations.WorkedEncodings := by
  unfold Obligations.WorkedEncodings
  decide

end Sys2Proof
end

section
/-! A step runs the decoded command (20_memory.md R39), also where the host places the word (log entry 6). -/

namespace Sys2Proof.Machine

/-- Settles O38: the port takes the word, and the decoder hands on the command. -/
theorem stepRunsDecodedCommand : Obligations.StepRunsDecodedCommand := by
  unfold Obligations.StepRunsDecodedCommand
  intro s w rest i hi hr hd
  exact step_instr hi hr hd

/-- Settles O39: the number is the word itself, and no reset is left directly behind it. -/
theorem fetchWordIsRunNext : Obligations.FetchWordIsRunNext := by
  unfold Obligations.FetchWordIsRunNext
  intro s w i hw hd
  have hmod : w % 2 ^ 72 = w := Nat.mod_eq_of_lt (by omega)
  have hi : (s.withFetchWord 72 w).input = .command (BitVec.ofNat 68 w) :: withoutLeadingResets s.input := by
    rw [State.withFetchWord, hmod]
    rfl
  exact step_instr hi (resetFollows_withoutLeadingResets _) hd

end Sys2Proof.Machine
end

section
/-! What idle registers hold cannot be observed (10_state.md R23; 70_reset_and_hazards.md R119): indistinguishable
states step to indistinguishable states, and a reset makes states indistinguishable. -/

namespace Sys2Proof.Machine

/-! ## The relation under the shared operations -/

section
variable {s t : State}

theorem Indistinguishable.respond (ty : RType) (v : Word64) (h : Indistinguishable s t) :
    Indistinguishable (respond ty v s) (respond ty v t) := by
  obtain ⟨hcfg, hin, hrsps, hfree, hunit⟩ := h
  exact ⟨hcfg, hin, congrArg (· ++ _) hrsps, hfree, hunit⟩

theorem Indistinguishable.withInput (rest : List HostAction) (h : Indistinguishable s t) :
    Indistinguishable (withInput rest s) (withInput rest t) := by
  obtain ⟨hcfg, -, hrsps, hfree, hunit⟩ := h
  exact ⟨hcfg, rfl, hrsps, hfree, hunit⟩

theorem Indistinguishable.dropCommand (h : Indistinguishable s t) :
    Indistinguishable (dropCommand s) (dropCommand t) := by
  obtain ⟨hcfg, hin, hrsps, hfree, hunit⟩ := h
  exact ⟨hcfg, hin, hrsps, congrArg (· + 1) hfree, hunit⟩

/-- Idle units are the same, whatever their registers hold. -/
theorem sameUnit_of_idle (hs : s.act = false) (ht : t.act = false) : SameUnit s t :=
  ⟨hs.trans ht.symm, fun h => by simp [hs] at h⟩

/-- The unit of a 64-bit build, without the look at the build. -/
theorem sameUnit_w64 (hw : s.cfg.hashWidth = .w64) : SameUnit s t ↔ s.act = t.act ∧ (s.act = true →
    s.h1 = t.h1 ∧ s.h2 = t.h2 ∧ s.cnt = t.cnt ∧ s.rem = t.rem ∧ s.ph = t.ph ∧ (s.ph = true → s.kh = t.kh)) := by
  simp only [SameUnit, hw]

/-- The unit of a 32-bit build, without the look at the build. -/
theorem sameUnit_w32 (hw : s.cfg.hashWidth = .w32) : SameUnit s t ↔ s.act = t.act ∧ (s.act = true →
    s.h1_32 = t.h1_32 ∧ s.cnt_32 = t.cnt_32 ∧ s.rem_32 = t.rem_32) := by
  simp only [SameUnit, hw]

/-- Two states outside unit MH3: the build, the ports and the count of free values. -/
def SameOutside (s t : State) : Prop :=
  s.cfg = t.cfg ∧ s.input = t.input ∧ s.rsps = t.rsps ∧ s.free = t.free

theorem Indistinguishable.sameOutside (h : Indistinguishable s t) : SameOutside s t := by
  obtain ⟨hcfg, hin, hrsps, hfree, -⟩ := h
  exact ⟨hcfg, hin, hrsps, hfree⟩

theorem Indistinguishable.sameUnit (h : Indistinguishable s t) : SameUnit s t := by
  obtain ⟨-, -, -, -, hunit⟩ := h
  exact hunit

theorem SameOutside.cfg (h : SameOutside s t) : s.cfg = t.cfg := h.1

theorem SameOutside.indistinguishable (h : SameOutside s t) (hu : SameUnit s t) : Indistinguishable s t := by
  obtain ⟨hcfg, hin, hrsps, hfree⟩ := h
  exact ⟨hcfg, hin, hrsps, hfree, hu⟩

/-- Going idle leaves nothing of the unit to compare. -/
theorem SameOutside.goIdle64 (h : SameOutside s t) : Indistinguishable (goIdle64 s) (goIdle64 t) := by
  obtain ⟨hcfg, hin, hrsps, hfree⟩ := h
  exact ⟨hcfg, hin, hrsps, congrArg (· + 5) hfree, sameUnit_of_idle rfl rfl⟩

theorem SameOutside.goIdle32 (h : SameOutside s t) : Indistinguishable (goIdle32 s) (goIdle32 t) := by
  obtain ⟨hcfg, hin, hrsps, hfree⟩ := h
  exact ⟨hcfg, hin, hrsps, congrArg (· + 3) hfree, sameUnit_of_idle rfl rfl⟩

theorem SameOutside.applyReset (h : SameOutside s t) : Indistinguishable (applyReset s) (applyReset t) := by
  have hcfg := h.cfg
  cases hw : s.cfg.hashWidth with
  | w64 => rw [applyReset_w64 hw, applyReset_w64 (hcfg ▸ hw)]; exact h.goIdle64
  | w32 => rw [applyReset_w32 hw, applyReset_w32 (hcfg ▸ hw)]; exact h.goIdle32

/-! ## The relation under the updates of an open sequence -/

theorem Indistinguishable.open64 (n : Word64) (hw : s.cfg.hashWidth = .w64) (h : Indistinguishable s t) :
    Indistinguishable (open64 n s) (open64 n t) :=
  SameOutside.indistinguishable h.sameOutside <| (sameUnit_w64 (s := Machine.open64 n s) hw).2
    ⟨rfl, fun _ => ⟨rfl, rfl, rfl, rfl, rfl, fun hp => by simp at hp⟩⟩

theorem Indistinguishable.hold64 (k : Word64) (hw : s.cfg.hashWidth = .w64) (h : Indistinguishable s t) :
    Indistinguishable (hold64 k s) (hold64 k t) := by
  obtain ⟨hact, hregs⟩ := (sameUnit_w64 hw).1 h.sameUnit
  refine SameOutside.indistinguishable h.sameOutside ((sameUnit_w64 (s := Machine.hold64 k s) hw).2 ⟨hact, ?_⟩)
  intro ha
  obtain ⟨h1, h2, hcnt, hrem, -, -⟩ := hregs ha
  exact ⟨h1, h2, hcnt, congrArg (· - 1) hrem, rfl, fun _ => rfl⟩

theorem Indistinguishable.mixed64 (p : Word64 × Word64) (hw : s.cfg.hashWidth = .w64) (h : Indistinguishable s t) :
    Indistinguishable (mixed64 p s) (mixed64 p t) := by
  obtain ⟨hact, hregs⟩ := (sameUnit_w64 hw).1 h.sameUnit
  refine SameOutside.indistinguishable h.sameOutside ((sameUnit_w64 (s := Machine.mixed64 p s) hw).2 ⟨hact, ?_⟩)
  intro ha
  obtain ⟨-, -, hcnt, hrem, -, -⟩ := hregs ha
  exact ⟨rfl, rfl, hcnt, congrArg (· - 1) hrem, rfl, fun hp => by simp at hp⟩

theorem Indistinguishable.open32 (n : Word32) (hw : s.cfg.hashWidth = .w32) (h : Indistinguishable s t) :
    Indistinguishable (open32 n s) (open32 n t) :=
  SameOutside.indistinguishable h.sameOutside <| (sameUnit_w32 (s := Machine.open32 n s) hw).2
    ⟨rfl, fun _ => ⟨rfl, rfl, rfl⟩⟩

theorem Indistinguishable.mixed32 (p : Word32) (hw : s.cfg.hashWidth = .w32) (h : Indistinguishable s t) :
    Indistinguishable (mixed32 p s) (mixed32 p t) := by
  obtain ⟨hact, hregs⟩ := (sameUnit_w32 hw).1 h.sameUnit
  refine SameOutside.indistinguishable h.sameOutside ((sameUnit_w32 (s := Machine.mixed32 p s) hw).2 ⟨hact, ?_⟩)
  intro ha
  obtain ⟨-, hcnt, hrem⟩ := hregs ha
  exact ⟨rfl, hcnt, congrArg (· - 1) hrem⟩

/-! ## The relation under the commands of a build -/

section
variable {s' : State} (h : Indistinguishable s t)
include h

/-- HINIT reads no register of the unit. -/
theorem execHinit_indistinguishable {n : Word64} (hw : s.cfg.hashWidth = .w64) (hx : execHinit n s = .next s') :
    ∃ t', exec (.hinit n) t = .next t' ∧ Indistinguishable s' t' := by
  obtain ⟨rfl, rfl⟩ | ⟨hn, rfl⟩ := execHinit_cases hx
  · exact ⟨_, exec_hinit_zero t, h.sameOutside.goIdle64.respond _ _⟩
  · exact ⟨_, exec_hinit_open hn t, (h.open64 n hw).respond _ _⟩

/-- HPUSH reads only what the relation fixes: ACT, while it is 1 the registers, and KH where PH says it is held. -/
theorem execHpush_indistinguishable {k : Word64} (hw : s.cfg.hashWidth = .w64) (hx : execHpush k s = .next s') :
    ∃ t', exec (.hpush k) t = .next t' ∧ Indistinguishable s' t' := by
  obtain ⟨hact, hregs⟩ := (sameUnit_w64 hw).1 h.sameUnit
  have hcfg := h.sameOutside.cfg
  obtain ⟨ha, rfl⟩ | ⟨ha, hp, hr, rfl⟩ | ⟨ha, hp, hr, rfl⟩ | ⟨ha, hp, hr, rfl⟩ | ⟨ha, hp, hr, rfl⟩ :=
    execHpush_cases hx
  · exact ⟨_, exec_hpush_idle k (hact ▸ ha), h.respond _ _⟩
  all_goals obtain ⟨h1, h2, hcnt, hrem, hph, hkh⟩ := hregs ha
  · rw [h1, h2, hcnt]
    exact ⟨_, exec_hpush_drop k (hact ▸ ha) (hph ▸ hp) (hrem ▸ hr), h.sameOutside.goIdle64.respond _ _⟩
  · exact ⟨_, exec_hpush_hold k (hact ▸ ha) (hph ▸ hp) (hrem ▸ hr), (h.hold64 k hw).respond _ _⟩
  · rw [hcfg, h1, h2, hcnt, hkh hp]
    exact ⟨_, exec_hpush_lastPair k (hact ▸ ha) (hph ▸ hp) (hrem ▸ hr), h.sameOutside.goIdle64.respond _ _⟩
  · rw [hcfg, h1, h2, hkh hp]
    exact ⟨_, exec_hpush_pair k (hact ▸ ha) (hph ▸ hp) (hrem ▸ hr), (h.mixed64 _ hw).respond _ _⟩

theorem execHinit32_indistinguishable {n : Word32} (hw : s.cfg.hashWidth = .w32)
    (hx : execHinit32 n s = .next s') : ∃ t', exec (.hinit32 n) t = .next t' ∧ Indistinguishable s' t' := by
  obtain ⟨rfl, rfl⟩ | ⟨hn, rfl⟩ := execHinit32_cases hx
  · exact ⟨_, exec_hinit32_zero t, h.sameOutside.goIdle32.respond _ _⟩
  · exact ⟨_, exec_hinit32_open hn t, (h.open32 n hw).respond _ _⟩

theorem execHpush32_indistinguishable {k : Word32} (hw : s.cfg.hashWidth = .w32)
    (hx : execHpush32 k s = .next s') : ∃ t', exec (.hpush32 k) t = .next t' ∧ Indistinguishable s' t' := by
  obtain ⟨hact, hregs⟩ := (sameUnit_w32 hw).1 h.sameUnit
  obtain ⟨ha, rfl⟩ | ⟨ha, hr, rfl⟩ | ⟨ha, hr, rfl⟩ := execHpush32_cases hx
  · exact ⟨_, exec_hpush32_idle k (hact ▸ ha), h.respond _ _⟩
  all_goals obtain ⟨h1, hcnt, hrem⟩ := hregs ha
  · rw [h1, hcnt]
    exact ⟨_, exec_hpush32_last k (hact ▸ ha) (hrem ▸ hr), h.sameOutside.goIdle32.respond _ _⟩
  · rw [h1]
    exact ⟨_, exec_hpush32_mix k (hact ▸ ha) (hrem ▸ hr), (h.mixed32 _ hw).respond _ _⟩

/-- A command that the build has takes indistinguishable states to indistinguishable states. -/
theorem exec_indistinguishable {i : Instr} (hwf : i.wellFormed s.cfg.hashWidth = true) (hx : exec i s = .next s') :
    ∃ t', exec i t = .next t' ∧ Indistinguishable s' t' := by
  cases i with
  | h2f i => rw [execH2f_cases hx]; exact ⟨_, exec_h2f i t, h.respond _ _⟩
  | f2h x => rw [execF2h_cases hx]; exact ⟨_, exec_f2h x t, h.respond _ _⟩
  | hinit n => exact execHinit_indistinguishable h (eq_of_beq hwf) hx
  | hpush k => exact execHpush_indistinguishable h (eq_of_beq hwf) hx
  | hinit32 n => exact execHinit32_indistinguishable h (eq_of_beq hwf) hx
  | hpush32 k => exact execHpush32_indistinguishable h (eq_of_beq hwf) hx

end

end

/-! ## The relation under a step -/

/-- Whether a command is dropped is decided by the actions behind it and the count of free values. -/
def Dropped (s : State) (rest : List HostAction) : Prop := resetFollows rest = true ∧ Config.freeDrop s.free = true

theorem step_dropped {s : State} {w : CommandWord} {rest : List HostAction} (hi : s.input = .command w :: rest)
    (hd : Dropped s rest) : step s = .next (dropCommand (withInput rest s)) := by
  obtain ⟨hr, hf⟩ := hd
  simp [step, acceptNext, hi, hr, hf]

theorem acceptNext_not_dropped {s : State} {w : CommandWord} {rest : List HostAction}
    (hi : s.input = .command w :: rest) (hd : ¬ Dropped s rest) :
    acceptNext s = acceptWord w (withInput rest s) := by
  have hd' : (resetFollows rest && Config.freeDrop s.free) = false := by
    rwa [Dropped, ← Bool.and_eq_true, Bool.not_eq_true] at hd
  simp [acceptNext, hi, hd']

/-- A command that is not dropped runs, also directly before a reset. -/
theorem step_instr_not_dropped {s : State} {w : CommandWord} {rest : List HostAction} {i : Instr}
    (hi : s.input = .command w :: rest) (hd : ¬ Dropped s rest) (hw : decode s.cfg.hashWidth w = .instr i) :
    step s = exec i (withInput rest s) := by
  simp only [step, acceptNext_not_dropped hi hd, acceptWord_instr (s := withInput rest s) hw]

theorem step_reserved_not_dropped {s : State} {w : CommandWord} {rest : List HostAction} {op : BitVec 4}
    (hi : s.input = .command w :: rest) (hd : ¬ Dropped s rest) (hw : decode s.cfg.hashWidth w = .reserved op) :
    step s = .next (answerReserved (withInput rest s)) := by
  simp only [step, acceptNext_not_dropped hi hd, acceptWord_reserved (s := withInput rest s) hw]

/-- Settles O53: both states take the same host action, drop it or decode it alike, and run it to indistinguishable
states. -/
theorem idleRegistersUnobservable : Obligations.IdleRegistersUnobservable := by
  unfold Obligations.IdleRegistersUnobservable
  intro s t s' h hs
  have hcfg : s.cfg = t.cfg := h.sameOutside.cfg
  obtain ⟨-, hin, -, hfree⟩ := h.sameOutside
  match hi : s.input with
  | [] =>
    cases (step_empty hi).symm.trans hs
    exact ⟨t, step_empty (hin ▸ hi), h⟩
  | .reset :: rest =>
    cases (step_reset hi).symm.trans hs
    exact ⟨_, step_reset (hin ▸ hi), (h.withInput rest).sameOutside.applyReset⟩
  | .command w :: rest =>
    have hdrop : Dropped t rest ↔ Dropped s rest := by rw [Dropped, Dropped, hfree]
    by_cases hd : Dropped s rest
    · cases (step_dropped hi hd).symm.trans hs
      exact ⟨_, step_dropped (hin ▸ hi) (hdrop.2 hd), (h.withInput rest).dropCommand⟩
    have hd' : ¬ Dropped t rest := mt hdrop.1 hd
    cases hw : decode s.cfg.hashWidth w with
    | reserved op =>
      cases (step_reserved_not_dropped hi hd hw).symm.trans hs
      exact ⟨_, step_reserved_not_dropped (hin ▸ hi) hd' (hcfg ▸ hw), (h.withInput rest).respond _ _⟩
    | instr i =>
      have hrun := (step_instr_not_dropped hi hd hw).symm.trans hs
      obtain ⟨t', ht', hind⟩ := exec_indistinguishable (h.withInput rest) (Laws.decode_wellFormed hw) hrun
      exact ⟨t', (step_instr_not_dropped (hin ▸ hi) hd' (hcfg ▸ hw)).trans ht', hind⟩

/-- Settles O47: the reset makes both units idle, and outside them the states are the same. -/
theorem resetForgetsOpenSequence : Obligations.ResetForgetsOpenSequence := by
  unfold Obligations.ResetForgetsOpenSequence
  intro s u rest hi hcfg hin hrsps hfree
  have hsame : SameOutside (withInput rest s) (withInput rest u) := ⟨hcfg.symm, rfl, hrsps.symm, hfree.symm⟩
  exact ⟨_, _, step_reset hi, step_reset (hin.trans hi), hsame.applyReset⟩

end Sys2Proof.Machine
end

section
/-! What every step keeps: the build and the other build's registers (00_scope.md R6, R7), the form of a response
(30_encoding.md R46; 60_exceptions.md R110), and the abstract view of unit MH3 (10_state.md R23). -/

namespace Sys2Proof.Machine

/-! ## The other build's registers -/

section
variable {s t : State}

theorem execHinit_sameRegisters32 {n : Word64} (h : execHinit n s = .next t) : SameRegisters32 s t := by
  obtain ⟨-, rfl⟩ | ⟨-, rfl⟩ := execHinit_cases h <;> exact ⟨rfl, rfl, rfl⟩

theorem execHpush_sameRegisters32 {k : Word64} (h : execHpush k s = .next t) : SameRegisters32 s t := by
  obtain ⟨-, rfl⟩ | ⟨-, -, -, rfl⟩ | ⟨-, -, -, rfl⟩ | ⟨-, -, -, rfl⟩ | ⟨-, -, -, rfl⟩ := execHpush_cases h <;>
    exact ⟨rfl, rfl, rfl⟩

theorem execHinit32_sameRegisters64 {n : Word32} (h : execHinit32 n s = .next t) : SameRegisters64 s t := by
  obtain ⟨-, rfl⟩ | ⟨-, rfl⟩ := execHinit32_cases h <;> exact ⟨rfl, rfl, rfl, rfl, rfl, rfl⟩

theorem execHpush32_sameRegisters64 {k : Word32} (h : execHpush32 k s = .next t) : SameRegisters64 s t := by
  obtain ⟨-, rfl⟩ | ⟨-, -, rfl⟩ | ⟨-, -, rfl⟩ := execHpush32_cases h <;> exact ⟨rfl, rfl, rfl, rfl, rfl, rfl⟩

/-- The registers that only the other build has are the same in both states. -/
def SameOtherBuild (s t : State) : Prop :=
  (s.cfg.hashWidth = .w64 → SameRegisters32 s t) ∧ (s.cfg.hashWidth = .w32 → SameRegisters64 s t)

theorem sameOtherBuild_of_w64 (hw : s.cfg.hashWidth = .w64) (h : SameRegisters32 s t) : SameOtherBuild s t :=
  ⟨fun _ => h, fun hw' => by cases hw.symm.trans hw'⟩

theorem sameOtherBuild_of_w32 (hw : s.cfg.hashWidth = .w32) (h : SameRegisters64 s t) : SameOtherBuild s t :=
  ⟨fun hw' => (by cases hw.symm.trans hw'), fun _ => h⟩

theorem sameRegisters_refl (s : State) : SameRegisters s s :=
  ⟨rfl, rfl, rfl, rfl, rfl, rfl, rfl, rfl, rfl, rfl, rfl⟩

/-- What touches no register of either build touches none of the other build's. -/
theorem sameOtherBuild_of_sameRegisters (h : SameRegisters s t) : SameOtherBuild s t := by
  obtain ⟨-, -, h1, h2, hcnt, hrem, hkh, hph, h1', hcnt', hrem'⟩ := h
  exact ⟨fun _ => ⟨h1', hcnt', hrem'⟩, fun _ => ⟨h1, h2, hcnt, hrem, hkh, hph⟩⟩

theorem applyReset_sameOtherBuild (s : State) : SameOtherBuild s (applyReset s) := by
  cases hw : s.cfg.hashWidth with
  | w64 => rw [applyReset_w64 hw]; exact sameOtherBuild_of_w64 hw ⟨rfl, rfl, rfl⟩
  | w32 => rw [applyReset_w32 hw]; exact sameOtherBuild_of_w32 hw ⟨rfl, rfl, rfl, rfl, rfl, rfl⟩

/-- A command that the build has touches its own build's registers only. -/
theorem exec_sameOtherBuild {i : Instr} (hwf : i.wellFormed s.cfg.hashWidth = true) (h : exec i s = .next t) :
    SameOtherBuild s t := by
  cases i with
  | h2f i => rw [execH2f_cases h]; exact sameOtherBuild_of_sameRegisters (sameRegisters_refl s)
  | f2h x => rw [execF2h_cases h]; exact sameOtherBuild_of_sameRegisters (sameRegisters_refl s)
  | hinit n => exact sameOtherBuild_of_w64 (eq_of_beq hwf) (execHinit_sameRegisters32 h)
  | hpush k => exact sameOtherBuild_of_w64 (eq_of_beq hwf) (execHpush_sameRegisters32 h)
  | hinit32 n => exact sameOtherBuild_of_w32 (eq_of_beq hwf) (execHinit32_sameRegisters64 h)
  | hpush32 k => exact sameOtherBuild_of_w32 (eq_of_beq hwf) (execHpush32_sameRegisters64 h)

theorem step_sameOtherBuild (h : step s = .next t) : SameOtherBuild s t := by
  obtain ⟨-, rfl⟩ | ⟨rest, -, rfl⟩ | ⟨w, rest, -, -, rfl⟩ | ⟨w, rest, op, -, -, rfl⟩ | ⟨w, rest, i, -, hd, hx⟩ :=
    step_cases h
  · exact sameOtherBuild_of_sameRegisters (sameRegisters_refl t)
  · exact applyReset_sameOtherBuild (withInput rest s)
  · exact sameOtherBuild_of_sameRegisters (sameRegisters_refl s)
  · exact sameOtherBuild_of_sameRegisters (sameRegisters_refl s)
  · exact exec_sameOtherBuild (s := withInput rest s) (Laws.decode_wellFormed hd) hx

end

/-- Settles O52: no operation writes the build parameters, and the decoder gives only commands of the build. -/
theorem buildIsFixed : Obligations.BuildIsFixed := by
  unfold Obligations.BuildIsFixed
  intro s t h
  exact ⟨step_cfg h, step_sameOtherBuild h⟩

/-! ## The form of a response -/

/-- The datum of an ACK is 0 and that of an ERR a code, 1 or 2. -/
def RegularDatum (ty : RType) (v : Word64) : Prop := (ty = .ack → v = 0) ∧ (ty = .err → v = 1 ∨ v = 2)

theorem regularDatum_data (v : Word64) : RegularDatum .data v := ⟨nofun, nofun⟩

theorem regularDatum_ack : RegularDatum .ack 0 := ⟨fun _ => rfl, nofun⟩

theorem regularDatum_errReserved : RegularDatum .err 1 := ⟨nofun, fun _ => .inl rfl⟩

theorem regularDatum_errIdle : RegularDatum .err 2 := ⟨nofun, fun _ => .inr rfl⟩

/-- Whatever one response has been added from `s` to `t`, its datum is regular. -/
def AnswersRegular (s t : State) : Prop := ∀ r, t.rsps = s.rsps ++ [r] → RegularDatum r.rtype r.rdata

section
variable {s t u : State}

theorem answersRegular_of_rsps_eq (h : t.rsps = s.rsps) : AnswersRegular s t := by
  intro r hr
  simp [h] at hr

theorem answersRegular_respond {ty : RType} {v : Word64} (hd : RegularDatum ty v) (hu : u.rsps = s.rsps) :
    AnswersRegular s (respond ty v u) := by
  intro r hr
  rw [respond_rsps, hu, List.append_cancel_left_eq, List.singleton_inj] at hr
  exact hr ▸ hd

theorem execHinit_answersRegular {n : Word64} (h : execHinit n s = .next t) : AnswersRegular s t := by
  obtain ⟨-, rfl⟩ | ⟨-, rfl⟩ := execHinit_cases h
  · exact answersRegular_respond (regularDatum_data _) (goIdle64_rsps s)
  · exact answersRegular_respond regularDatum_ack (open64_rsps n s)

theorem execHpush_answersRegular {k : Word64} (h : execHpush k s = .next t) : AnswersRegular s t := by
  obtain ⟨-, rfl⟩ | ⟨-, -, -, rfl⟩ | ⟨-, -, -, rfl⟩ | ⟨-, -, -, rfl⟩ | ⟨-, -, -, rfl⟩ := execHpush_cases h
  · exact answersRegular_respond regularDatum_errIdle rfl
  · exact answersRegular_respond (regularDatum_data _) (goIdle64_rsps s)
  · exact answersRegular_respond regularDatum_ack (hold64_rsps k s)
  · exact answersRegular_respond (regularDatum_data _) (goIdle64_rsps s)
  · exact answersRegular_respond regularDatum_ack (mixed64_rsps _ s)

theorem execHinit32_answersRegular {n : Word32} (h : execHinit32 n s = .next t) : AnswersRegular s t := by
  obtain ⟨-, rfl⟩ | ⟨-, rfl⟩ := execHinit32_cases h
  · exact answersRegular_respond (regularDatum_data _) (goIdle32_rsps s)
  · exact answersRegular_respond regularDatum_ack (open32_rsps n s)

theorem execHpush32_answersRegular {k : Word32} (h : execHpush32 k s = .next t) : AnswersRegular s t := by
  obtain ⟨-, rfl⟩ | ⟨-, -, rfl⟩ | ⟨-, -, rfl⟩ := execHpush32_cases h
  · exact answersRegular_respond regularDatum_errIdle rfl
  · exact answersRegular_respond (regularDatum_data _) (goIdle32_rsps s)
  · exact answersRegular_respond regularDatum_ack (mixed32_rsps _ s)

theorem exec_answersRegular {i : Instr} (h : exec i s = .next t) : AnswersRegular s t := by
  cases i with
  | h2f i => rw [execH2f_cases h]; exact answersRegular_respond (regularDatum_data _) rfl
  | f2h x => rw [execF2h_cases h]; exact answersRegular_respond (regularDatum_data _) rfl
  | hinit n => exact execHinit_answersRegular h
  | hpush k => exact execHpush_answersRegular h
  | hinit32 n => exact execHinit32_answersRegular h
  | hpush32 k => exact execHpush32_answersRegular h

theorem step_answersRegular (h : step s = .next t) : AnswersRegular s t := by
  obtain ⟨-, rfl⟩ | ⟨rest, -, rfl⟩ | ⟨w, rest, -, -, rfl⟩ | ⟨w, rest, op, -, -, rfl⟩ | ⟨w, rest, i, -, -, hx⟩ :=
    step_cases h
  · exact answersRegular_of_rsps_eq rfl
  · exact answersRegular_of_rsps_eq (applyReset_rsps _)
  · exact answersRegular_of_rsps_eq (dropCommand_rsps _)
  · exact answersRegular_respond regularDatum_errReserved rfl
  · exact exec_answersRegular (s := withInput rest s) hx

end

/-- Bits 65:64 of a response word are its type. -/
theorem word_type (r : Response) : r.word.extractLsb' 64 2 = rtypeCode r.rtype :=
  BitVec.extractLsb'_append_eq_left

/-- Bits 63:0 of a response word are its datum. -/
theorem word_datum (r : Response) : r.word.extractLsb' 0 64 = r.rdata :=
  BitVec.extractLsb'_append_eq_right

/-- Settles O6: the word is the two fields side by side, and each branch of a step that answers ACK or ERR gives
one of the data 0, 1 and 2. -/
theorem responseFormat : Obligations.ResponseFormat := by
  unfold Obligations.ResponseFormat
  constructor
  · intro r
    rw [word_type]
    refine ⟨?_, ?_, word_datum r⟩ <;> cases r.rtype <;> decide
  · intro s t r h hr
    exact step_answersRegular h r hr

/-! ## The abstract view (R23) -/

section
variable {s : State}

theorem mh3View_idle (ha : s.act = false) : mh3View s = .idle := by
  simp [mh3View, ha]

theorem mh3View_held (ha : s.act = true) (hp : s.ph = true) :
    mh3View s = .active s.h1 s.h2 s.cnt s.rem (some s.kh) := by
  simp [mh3View, ha, hp]

theorem mh3View_unheld (ha : s.act = true) (hp : s.ph = false) :
    mh3View s = .active s.h1 s.h2 s.cnt s.rem none := by
  simp [mh3View, ha, hp]

/-- Of a state that goes idle only the response is left to see. -/
theorem mh3View_respond_goIdle64 (v : Word64) (s : State) : mh3View (respond .data v (goIdle64 s)) = .idle :=
  mh3View_idle rfl

/-- HINIT on the registers is HINIT on the view. -/
theorem exec_hinit_view (n : Word64) (s : State) :
    ∃ (t : State) (r : Response), exec (.hinit n) s = .next t ∧ t.rsps = s.rsps ++ [r] ∧
      mh3Hinit n = (mh3View t, r) := by
  by_cases hn : n = 0
  · subst hn
    refine ⟨_, _, exec_hinit_zero s, rfl, ?_⟩
    rw [mh3View_respond_goIdle64]
    rfl
  · refine ⟨_, _, exec_hinit_open hn s, rfl, ?_⟩
    rw [mh3View_unheld rfl rfl, mh3Hinit, if_neg hn]
    rfl

/-- HPUSH on the registers is HPUSH on the view, branch by branch. -/
theorem exec_hpush_view (k : Word64) (s : State) :
    ∃ (t : State) (r : Response), exec (.hpush k) s = .next t ∧ t.rsps = s.rsps ++ [r] ∧
      mh3Hpush s.cfg.cH2B k (mh3View s) = (mh3View t, r) := by
  cases ha : s.act with
  | false =>
    refine ⟨_, _, exec_hpush_idle k ha, rfl, ?_⟩
    rw [mh3View_idle ha, mh3View_idle (s := respond _ _ s) ha]
    rfl
  | true =>
    cases hp : s.ph with
    | false =>
      rw [mh3View_unheld ha hp, mh3Hpush]
      by_cases hr : s.rem = 1
      · refine ⟨_, _, exec_hpush_drop k ha hp hr, rfl, ?_⟩
        rw [if_pos hr, mh3View_respond_goIdle64]
      · refine ⟨_, _, exec_hpush_hold k ha hp hr, rfl, ?_⟩
        rw [if_neg hr, mh3View_held (s := respond _ _ (hold64 k s)) ha rfl]
        rfl
    | true =>
      rw [mh3View_held ha hp, mh3Hpush]
      by_cases hr : s.rem = 1
      · refine ⟨_, _, exec_hpush_lastPair k ha hp hr, rfl, ?_⟩
        rw [if_pos hr, mh3View_respond_goIdle64]
        rfl
      · refine ⟨_, _, exec_hpush_pair k ha hp hr, rfl, ?_⟩
        rw [if_neg hr, mh3View_unheld (s := respond _ _ (mixed64 _ s)) ha rfl]
        rfl

end

/-- Settles O54: one lemma for each of the two commands. -/
theorem abstractViewAgrees : Obligations.AbstractViewAgrees := by
  unfold Obligations.AbstractViewAgrees
  intro s n k
  exact ⟨exec_hinit_view n s, exec_hpush_view k s⟩

end Sys2Proof.Machine
end

section
/-! The invariant of unit MH3 (10_state.md R24; 42_hash32_variant.md R105, R106): it holds after reset, and every step
keeps it. -/

namespace Sys2Proof.Machine

/-! ## The count of elements still to come -/

/-- Counting down from a non-zero count does not wrap. -/
theorem toNat_sub_one {n : Nat} {r : BitVec n} (hn : 0 < n) (h : 1 ≤ r.toNat) : (r - 1).toNat = r.toNat - 1 := by
  have h1 : (1 : BitVec n).toNat = 1 := Nat.mod_eq_of_lt (Nat.one_lt_two_pow hn.ne')
  rw [BitVec.toNat_sub_of_le (by rwa [BitVec.le_def, h1]), h1]

/-- A count that is neither 0 nor 1 is at least 2. -/
theorem two_le_toNat {n : Nat} {r : BitVec n} (hn : 0 < n) (h : 1 ≤ r.toNat) (hr : r ≠ 1) : 2 ≤ r.toNat := by
  have h1 : (1 : BitVec n).toNat = 1 := Nat.mod_eq_of_lt (Nat.one_lt_two_pow hn.ne')
  have hne : r.toNat ≠ 1 := h1 ▸ BitVec.toNat_ne.1 hr
  omega

theorem one_le_toNat_iff {n : Nat} {r : BitVec n} : 1 ≤ r.toNat ↔ r ≠ 0 := by
  rw [Nat.one_le_iff_ne_zero, BitVec.toNat_ne, BitVec.ofNat_eq_ofNat, BitVec.toNat_ofNat, Nat.zero_mod]

/-! ## The 64-bit unit -/

/-- What R24 says of an open sequence of which `xs` has been pushed. -/
def Open64 (s : State) (xs : List Word64) : Prop :=
  1 ≤ s.rem.toNat ∧ xs.length + s.rem.toNat = s.cnt.toNat ∧ (s.ph = true ↔ xs.length % 2 = 1) ∧
  (s.h1, s.h2) = pairRounds s.cfg.cH2B (init64 s.cnt) xs ∧ (s.ph = true → xs.getLast? = some s.kh)

section
variable {s t : State} {xs : List Word64}

theorem inv64_of_open (ha : s.act = true) (h : Open64 s xs) : Inv64 s := by
  obtain ⟨hrem, hlen, hph, hacc, hkh⟩ := h
  have hlen' : s.cnt.toNat - s.rem.toNat = xs.length := by omega
  have hcnt : s.cnt ≠ 0 := one_le_toNat_iff.1 (by omega)
  have hcounters : Counters64 s := ⟨fun _ => ⟨hcnt, hrem, by omega, hlen' ▸ hph⟩, fun hf => by simp [ha] at hf⟩
  exact ⟨hcounters, fun _ => ⟨xs, hlen'.symm, hacc, hkh⟩⟩

theorem open_of_inv64 (ha : s.act = true) (h : Inv64 s) : ∃ xs, Open64 s xs := by
  obtain ⟨⟨hopen, -⟩, hpushed⟩ := h
  obtain ⟨-, hrem, hle, hph⟩ := hopen ha
  obtain ⟨xs, hlen, hacc, hkh⟩ := hpushed ha
  exact ⟨xs, hrem, by omega, hlen ▸ hph, hacc, hkh⟩

theorem inv64_of_idle (ha : s.act = false) (hp : s.ph = false) : Inv64 s :=
  ⟨⟨fun h => by simp [ha] at h, fun _ => hp⟩, fun h => by simp [ha] at h⟩

theorem open64_open {n : Word64} (hn : n ≠ 0) : Open64 (open64 n s) [] :=
  ⟨one_le_toNat_iff.2 hn, Nat.zero_add _, by simp, rfl, fun hp => by simp at hp⟩

/-- A held element opens no round. -/
theorem hold64_open (k : Word64) (hp : s.ph = false) (hr : s.rem ≠ 1) (h : Open64 s xs) :
    Open64 (hold64 k s) (xs ++ [k]) := by
  obtain ⟨hrem, hlen, hph, hacc, -⟩ := h
  have hrem' : (hold64 k s).rem.toNat = s.rem.toNat - 1 := toNat_sub_one (by decide) hrem
  have h2 : 2 ≤ s.rem.toNat := two_le_toNat (by decide) hrem hr
  have heven : xs.length % 2 = 0 := by
    have := mt hph.2 (by simp [hp])
    omega
  refine ⟨by omega, ?_, ?_, ?_, fun _ => List.getLast?_concat⟩
  · rw [hrem', hold64_cnt, List.length_append, List.length_singleton]
    omega
  · rw [hold64_ph, List.length_append, List.length_singleton, eq_self_iff_true, true_iff]
    omega
  · exact hacc.trans (pairRounds_append_single _ _ xs k heven).symm

/-- The held element and the one pushed are the last pair. -/
theorem mixed64_open (k : Word64) (hp : s.ph = true) (hr : s.rem ≠ 1) (h : Open64 s xs) :
    Open64 (mixed64 (pairRound s.cfg.cH2B (s.h1, s.h2) s.kh k) s) (xs ++ [k]) := by
  obtain ⟨hrem, hlen, hph, hacc, hkh⟩ := h
  have hrem' : (s.rem - 1).toNat = s.rem.toNat - 1 := toNat_sub_one (by decide) hrem
  have h2 : 2 ≤ s.rem.toNat := two_le_toNat (by decide) hrem hr
  have hodd := hph.1 hp
  obtain ⟨ys, rfl⟩ : ∃ ys, xs = ys ++ [s.kh] := List.getLast?_eq_some_iff.1 (hkh hp)
  rw [List.length_append, List.length_singleton] at hlen hodd
  have heven : ys.length % 2 = 0 := by omega
  refine ⟨by rw [mixed64_rem]; omega, ?_, ?_, ?_, fun hp' => by simp at hp'⟩
  · rw [mixed64_rem, hrem', mixed64_cnt]
    simp only [List.length_append, List.length_singleton]
    omega
  · simp only [mixed64_ph, List.length_append, List.length_singleton, reduceCtorEq, false_iff]
    omega
  · rw [pairRounds_append_single _ _ ys _ heven] at hacc
    rw [hacc, List.append_assoc, List.singleton_append]
    exact (pairRounds_append_pair _ _ ys s.kh k heven).symm

theorem execHinit_inv64 {n : Word64} (h : execHinit n s = .next t) : Inv64 t := by
  obtain ⟨-, rfl⟩ | ⟨hn, rfl⟩ := execHinit_cases h
  · exact inv64_of_idle rfl rfl
  · exact inv64_of_open (s := open64 n s) rfl (open64_open hn)

theorem execHpush_inv64 {k : Word64} (hinv : Inv64 s) (h : execHpush k s = .next t) : Inv64 t := by
  obtain ⟨-, rfl⟩ | ⟨-, -, -, rfl⟩ | ⟨ha, hp, hr, rfl⟩ | ⟨-, -, -, rfl⟩ | ⟨ha, hp, hr, rfl⟩ := execHpush_cases h
  · exact hinv
  · exact inv64_of_idle rfl rfl
  · obtain ⟨xs, hopen⟩ := open_of_inv64 ha hinv
    exact inv64_of_open (s := hold64 k s) ha (hold64_open k hp hr hopen)
  · exact inv64_of_idle rfl rfl
  · obtain ⟨xs, hopen⟩ := open_of_inv64 ha hinv
    exact inv64_of_open (s := mixed64 _ s) ha (mixed64_open k hp hr hopen)

end

/-! ## The 32-bit unit -/

/-- The same of a 32-bit unit's open sequence. -/
def Open32 (s : State) (xs : List Word32) : Prop :=
  1 ≤ s.rem_32.toNat ∧ xs.length + s.rem_32.toNat = s.cnt_32.toNat ∧ s.h1_32 = xs.foldl round32 (init32 s.cnt_32)

section
variable {s t : State} {xs : List Word32}

theorem inv32_of_open (h : Open32 s xs) : Inv32 s := by
  obtain ⟨hrem, hlen, hacc⟩ := h
  have hcnt : s.cnt_32 ≠ 0 := one_le_toNat_iff.1 (by omega)
  exact ⟨fun _ => ⟨hcnt, hrem, by omega⟩, fun _ => ⟨xs, by omega, hacc⟩⟩

theorem open_of_inv32 (ha : s.act = true) (h : Inv32 s) : ∃ xs, Open32 s xs := by
  obtain ⟨hopen, hpushed⟩ := h
  obtain ⟨-, hrem, hle⟩ := hopen ha
  obtain ⟨xs, hlen, hacc⟩ := hpushed ha
  exact ⟨xs, hrem, by omega, hacc⟩

theorem inv32_of_idle (ha : s.act = false) : Inv32 s :=
  ⟨fun h => by simp [ha] at h, fun h => by simp [ha] at h⟩

theorem open32_open {n : Word32} (hn : n ≠ 0) : Open32 (open32 n s) [] :=
  ⟨one_le_toNat_iff.2 hn, Nat.zero_add _, rfl⟩

theorem mixed32_open (k : Word32) (hr : s.rem_32 ≠ 1) (h : Open32 s xs) :
    Open32 (mixed32 (round32 s.h1_32 k) s) (xs ++ [k]) := by
  obtain ⟨hrem, hlen, hacc⟩ := h
  have hrem' : (s.rem_32 - 1).toNat = s.rem_32.toNat - 1 := toNat_sub_one (by decide) hrem
  have h2 : 2 ≤ s.rem_32.toNat := two_le_toNat (by decide) hrem hr
  refine ⟨by rw [mixed32_rem_32]; omega, ?_, ?_⟩
  · rw [mixed32_rem_32, hrem', mixed32_cnt_32, List.length_append, List.length_singleton]
    omega
  · rw [mixed32_h1_32, mixed32_cnt_32, List.foldl_append, ← hacc]
    rfl

theorem execHinit32_inv32 {n : Word32} (h : execHinit32 n s = .next t) : Inv32 t := by
  obtain ⟨-, rfl⟩ | ⟨hn, rfl⟩ := execHinit32_cases h
  · exact inv32_of_idle rfl
  · exact inv32_of_open (s := open32 n s) (open32_open hn)

theorem execHpush32_inv32 {k : Word32} (hinv : Inv32 s) (h : execHpush32 k s = .next t) : Inv32 t := by
  obtain ⟨-, rfl⟩ | ⟨-, -, rfl⟩ | ⟨ha, hr, rfl⟩ := execHpush32_cases h
  · exact hinv
  · exact inv32_of_idle rfl
  · obtain ⟨xs, hopen⟩ := open_of_inv32 ha hinv
    exact inv32_of_open (s := mixed32 _ s) (mixed32_open k hr hopen)

end

/-! ## The unit of either build -/

section
variable {s t : State}

theorem unitInv_w64 (hw : s.cfg.hashWidth = .w64) : UnitInv s ↔ Inv64 s := by simp only [UnitInv, hw]

theorem unitInv_w32 (hw : s.cfg.hashWidth = .w32) : UnitInv s ↔ Inv32 s := by simp only [UnitInv, hw]

theorem applyReset_unitInv (s : State) : UnitInv (applyReset s) := by
  cases hw : s.cfg.hashWidth with
  | w64 => rw [applyReset_w64 hw]; exact (unitInv_w64 (s := goIdle64 s) hw).2 (inv64_of_idle rfl rfl)
  | w32 => rw [applyReset_w32 hw]; exact (unitInv_w32 (s := goIdle32 s) hw).2 (inv32_of_idle rfl)

/-- A command that the build has keeps the invariant. -/
theorem exec_unitInv {i : Instr} (hwf : i.wellFormed s.cfg.hashWidth = true) (hinv : UnitInv s)
    (h : exec i s = .next t) : UnitInv t := by
  have hcfg : t.cfg = s.cfg := exec_cfg h
  cases i with
  | h2f i => rw [execH2f_cases h]; exact hinv
  | f2h x => rw [execF2h_cases h]; exact hinv
  | hinit n => exact (unitInv_w64 (hcfg ▸ eq_of_beq hwf)).2 (execHinit_inv64 h)
  | hpush k =>
    have hw : s.cfg.hashWidth = .w64 := eq_of_beq hwf
    exact (unitInv_w64 (hcfg ▸ hw)).2 (execHpush_inv64 ((unitInv_w64 hw).1 hinv) h)
  | hinit32 n => exact (unitInv_w32 (hcfg ▸ eq_of_beq hwf)).2 (execHinit32_inv32 h)
  | hpush32 k =>
    have hw : s.cfg.hashWidth = .w32 := eq_of_beq hwf
    exact (unitInv_w32 (hcfg ▸ hw)).2 (execHpush32_inv32 ((unitInv_w32 hw).1 hinv) h)

end

/-- Settles O51: going idle meets the invariant, an answer and the port touch no register, and each command keeps
it. -/
theorem invariantKeptByStep : Obligations.InvariantKeptByStep := by
  unfold Obligations.InvariantKeptByStep
  intro s t hinv h
  obtain ⟨-, rfl⟩ | ⟨rest, -, rfl⟩ | ⟨w, rest, -, -, rfl⟩ | ⟨w, rest, op, -, -, rfl⟩ | ⟨w, rest, i, -, hd, hx⟩ :=
    step_cases h
  · exact hinv
  · exact applyReset_unitInv _
  · exact hinv
  · exact hinv
  · exact exec_unitInv (s := withInput rest s) (Laws.decode_wellFormed hd) hinv hx

/-- Settles O50: the unit is idle after reset, with no element held. -/
theorem invariantAtReset : Obligations.InvariantAtReset := by
  unfold Obligations.InvariantAtReset
  exact (unitInv_w64 (s := State.reset) rfl).2 (inv64_of_idle rfl rfl)

/-- Settles O49: the fields of the reset state. -/
theorem resetState : Obligations.ResetState := by
  unfold Obligations.ResetState
  exact ⟨rfl, rfl, rfl, rfl, rfl, rfl, by decide⟩

end Sys2Proof.Machine
end

section
/-! Streams of commands (20_memory.md R40; 41_hash64.md R94; 42_hash32_variant.md R107): every command of a stream is
answered in one step, and the hash commands of a whole sequence, whatever stands between them, are answered its
hash. -/

namespace Sys2Proof.Machine

/-! ## A run that answers every command -/

/-- `n` steps lead from `s` to `t` and are answered `rs`, one response each. -/
def Answered (n : Nat) (s t : State) (rs : List Response) : Prop :=
  Host.Core.run Sys2Proof.core n s = .next t ∧ t.rsps = s.rsps ++ rs ∧ rs.length = n

section
variable {n : Nat} {s t u : State} {r : Response} {rs : List Response}

theorem answered_zero (s : State) : Answered 0 s s [] :=
  ⟨core_run_zero s, (List.append_nil _).symm, rfl⟩

theorem answered_succ (h : step s = .next u) (hr : u.rsps = s.rsps ++ [r]) (ha : Answered n u t rs) :
    Answered (n + 1) s t (r :: rs) := by
  obtain ⟨hrun, hrsps, hlen⟩ := ha
  exact ⟨(core_run_succ n h).trans hrun, by rw [hrsps, hr, List.append_assoc, List.singleton_append],
    congrArg (· + 1) hlen⟩

end

section
variable {s : State} {w : CommandWord} {ws : List CommandWord} {rest : List HostAction}

/-- The first word of a stream is the next action, and no reset follows it directly. -/
theorem Offers.cons (h : Offers s (w :: ws) rest) :
    s.input = .command w :: (ws.map .command ++ rest) ∧ resetFollows (ws.map .command ++ rest) = false := by
  obtain ⟨hin, hr⟩ := h
  refine ⟨hin, ?_⟩
  cases ws with
  | nil => exact hr
  | cons _ _ => rfl

/-- A stream is answered completely, one step and one response for each word. -/
theorem Offers.answered (h : Offers s ws rest) : ∃ t rs, Answered ws.length s t rs ∧ t.input = rest := by
  induction ws generalizing s with
  | nil => exact ⟨s, [], answered_zero s, h.1⟩
  | cons w ws ih =>
    obtain ⟨hin, hr⟩ := h.cons
    obtain ⟨u, hu, huin, r, hursps⟩ := step_command_answeredOnce hin hr
    obtain ⟨t, rs, ha, ht⟩ := ih (s := u) ⟨huin, h.2⟩
    exact ⟨t, r :: rs, answered_succ hu hursps ha, ht⟩

end

/-- Settles O44: a stream with nothing behind it, as one that no reset follows. -/
theorem everyStreamIsAnswered : Obligations.EveryStreamIsAnswered := by
  unfold Obligations.EveryStreamIsAnswered
  intro s ws hin
  obtain ⟨t, rs, ⟨hrun, hrsps, hlen⟩, ht⟩ := Offers.answered (s := s) (rest := []) ⟨by rw [hin, List.append_nil], rfl⟩
  exact ⟨t, rs, hrun, ht, hrsps, hlen⟩

/-! ## Words that are no hash commands -/

/-- A converter command or a reserved word is answered and touches no register (10_state.md R27; 30_encoding.md
R50). -/
theorem step_not_hashWord {s : State} {w : CommandWord} {rest : List HostAction} (hi : s.input = .command w :: rest)
    (hr : resetFollows rest = false) (hw : isHashWord w = false) :
    ∃ t r, step s = .next t ∧ t.input = rest ∧ t.rsps = s.rsps ++ [r] ∧ SameRegisters s t := by
  have hop : opField w ≠ 0x4#4 ∧ opField w ≠ 0x5#4 := by simpa [isHashWord] using hw
  cases hd : decode s.cfg.hashWidth w with
  | reserved op => exact ⟨_, _, step_reserved hi hr hd, rfl, rfl, sameRegisters_refl s⟩
  | instr i =>
    rw [opField_of_decode_instr hd] at hop
    cases i with
    | h2f i => exact ⟨_, _, step_instr hi hr hd, rfl, rfl, sameRegisters_refl s⟩
    | f2h x => exact ⟨_, _, step_instr hi hr hd, rfl, rfl, sameRegisters_refl s⟩
    | hinit _ | hinit32 _ => exact absurd rfl hop.1
    | hpush _ | hpush32 _ => exact absurd rfl hop.2

/-! ## Streams that interleave a sequence with other words -/

/-- `P cs as s` says that in state `s` the hash words `cs` are answered `as` and leave the unit idle: each of them in
turn, and whatever touches no register does not disturb it. -/
structure Serves (P : List CommandWord → List Response → State → Prop) : Prop where
  done : ∀ {as s}, P [] as s → as = [] ∧ s.act = false
  undisturbed : ∀ {cs as s t}, SameRegisters s t → P cs as s → P cs as t
  next : ∀ {w cs as s}, P (w :: cs) as s → ∃ i t a as', decode s.cfg.hashWidth w = .instr i ∧
    exec i s = .next t ∧ t.rsps = s.rsps ++ [a] ∧ as = a :: as' ∧ P cs as' t

/-- One word of such a stream. -/
theorem Serves.step {P : List CommandWord → List Response → State → Prop} (hP : Serves P) {s : State}
    {w : CommandWord} {rest : List HostAction} {cs : List CommandWord} {as : List Response}
    (hi : s.input = .command w :: rest) (hr : resetFollows rest = false) (h : P (w :: cs) as s) :
    ∃ t a as', Machine.step s = .next t ∧ t.input = rest ∧ t.rsps = s.rsps ++ [a] ∧ as = a :: as' ∧ P cs as' t := by
  have h' : P (w :: cs) as (withInput rest s) := hP.undisturbed (sameRegisters_refl s) h
  obtain ⟨i, t, a, as', hd, hx, hrsps, has, ht⟩ := hP.next h'
  exact ⟨t, a, as', (step_instr hi hr hd).trans hx, (exec_answeredOnce hx).1, hrsps, has, ht⟩

/-- The hash words of a stream are answered as they would be alone. -/
theorem Serves.stream {P : List CommandWord → List Response → State → Prop} (hP : Serves P)
    {ws : List CommandWord} {rest : List HostAction} {s : State} {as : List Response}
    (h : P (ws.filter isHashWord) as s) (ho : Offers s ws rest) :
    ∃ t rs, Answered ws.length s t rs ∧ t.act = false ∧ t.input = rest ∧ hashResponses ws rs = as := by
  induction ws generalizing s as with
  | nil =>
    obtain ⟨rfl, ha⟩ := hP.done h
    exact ⟨s, [], answered_zero s, ha, ho.1, rfl⟩
  | cons w ws ih =>
    obtain ⟨hin, hr⟩ := ho.cons
    cases hw : isHashWord w with
    | false =>
      rw [List.filter_cons_of_neg (by simp [hw])] at h
      obtain ⟨u, r, hu, huin, hursps, hsame⟩ := step_not_hashWord hin hr hw
      obtain ⟨t, rs, ha, htact, htin, hrs⟩ := ih (hP.undisturbed hsame h) ⟨huin, ho.2⟩
      exact ⟨t, r :: rs, answered_succ hu hursps ha, htact, htin, by simp [hashResponses, hw, hrs]⟩
    | true =>
      rw [List.filter_cons_of_pos hw] at h
      obtain ⟨u, a, as', hu, huin, hursps, rfl, hserve⟩ := hP.step hin hr h
      obtain ⟨t, rs, ha, htact, htin, hrs⟩ := ih hserve ⟨huin, ho.2⟩
      exact ⟨t, a :: rs, answered_succ hu hursps ha, htact, htin, by simp [hashResponses, hw, hrs]⟩

/-! ## Counting down -/

/-- With two or more elements to come the count is not 1. -/
theorem ofNat_add_two_ne_one {w n : Nat} (h : n + 2 < 2 ^ w) : BitVec.ofNat w (n + 2) ≠ 1#w := by
  rw [BitVec.toNat_ne, BitVec.toNat_ofNat, BitVec.toNat_ofNat, Nat.mod_eq_of_lt h,
    Nat.mod_eq_of_lt (by omega)]
  omega

theorem ofNat_succ_sub_one (w n : Nat) : BitVec.ofNat w (n + 1) - 1 = BitVec.ofNat w n := by
  rw [BitVec.ofNat_add]
  exact BitVec.add_sub_cancel _ _

theorem ofNat_succ_ne_zero {w n : Nat} (h : n + 1 < 2 ^ w) : BitVec.ofNat w (n + 1) ≠ 0 := by
  rw [← one_le_toNat_iff, BitVec.toNat_ofNat, Nat.mod_eq_of_lt h]
  omega

theorem hashAnswers_succ (n : Nat) (v : Word64) :
    hashAnswers (n + 1) v = { rtype := .ack, rdata := 0 } :: hashAnswers n v := rfl

/-! ## A sequence in a 64-bit build -/

/-- The elements that wait for a partner. -/
def held64 (s : State) : List Word64 := if s.ph = true then [s.kh] else []

/-- The hash that an open unit answers after the elements `ys`. -/
def finish64 (s : State) (ys : List Word64) : Word64 :=
  let h := pairRounds s.cfg.cH2B (s.h1, s.h2) (held64 s ++ ys)
  fin64 h.1 h.2 s.cnt

/-- The words that push `ys`. -/
def pushWords64 (ys : List Word64) : List CommandWord := ys.map fun y => encode (.hpush y)

/-- The hash words that a 64-bit build is still to be sent, with its answers to them: none while idle, the rest of an
open sequence, or a whole one. -/
inductive Owes64 : List CommandWord → List Response → State → Prop where
  | idle {s : State} : s.act = false → Owes64 [] [] s
  | rest {s : State} (y : Word64) (ys : List Word64) : s.cfg.hashWidth = .w64 → ys.length + 1 < 2 ^ 64 →
      s.act = true → s.rem = BitVec.ofNat 64 (ys.length + 1) →
      Owes64 (encode (.hpush y) :: pushWords64 ys) (hashAnswers ys.length (finish64 s (y :: ys))) s
  | whole {s : State} (xs : List Word64) : s.cfg.hashWidth = .w64 → xs.length < 2 ^ 64 →
      Owes64 (encode (.hinit (BitVec.ofNat 64 xs.length)) :: pushWords64 xs)
        (hashAnswers xs.length (seqHash64 s.cfg.cH2B xs)) s

theorem hashStream64_eq (xs : List Word64) :
    hashStream64 xs = encode (.hinit (BitVec.ofNat 64 xs.length)) :: pushWords64 xs := by
  simp [hashStream64, hashCommands, pushWords64]

theorem decode_encode_hinit (n : Word64) : decode .w64 (encode (.hinit n)) = .instr (.hinit n) :=
  decodeInvertsEncode .w64 (.hinit n) rfl

theorem decode_encode_hpush (k : Word64) : decode .w64 (encode (.hpush k)) = .instr (.hpush k) :=
  decodeInvertsEncode .w64 (.hpush k) rfl

section
variable {s t : State}

theorem finish64_congr (h : SameRegisters s t) (ys : List Word64) : finish64 t ys = finish64 s ys := by
  obtain ⟨hcfg, -, h1, h2, hcnt, -, hkh, hph, -, -, -⟩ := h
  simp only [finish64, held64, hcfg, h1, h2, hcnt, hkh, hph]

theorem finish64_open64 (s : State) (xs : List Word64) :
    finish64 (open64 (BitVec.ofNat 64 xs.length) s) xs = seqHash64 s.cfg.cH2B xs := rfl

/-- Holding an element does not change what the sequence comes to. -/
theorem finish64_hold64 (hp : s.ph = false) (y : Word64) (ys : List Word64) :
    finish64 (hold64 y s) ys = finish64 s (y :: ys) := by
  simp only [finish64, held64, hp, hold64_ph, hold64_kh, hold64_cfg, hold64_h1, hold64_h2, hold64_cnt, if_true,
    reduceCtorEq, if_false, List.nil_append, List.singleton_append]

/-- Neither does mixing the pair that an element completes. -/
theorem finish64_mixed64 (hp : s.ph = true) (y : Word64) (ys : List Word64) :
    finish64 (mixed64 (pairRound s.cfg.cH2B (s.h1, s.h2) s.kh y) s) ys = finish64 s (y :: ys) := by
  simp only [finish64, held64, hp, mixed64_ph, mixed64_cfg, mixed64_h1, mixed64_h2, mixed64_cnt, if_true, reduceCtorEq,
    if_false, List.nil_append, List.singleton_append, pairRounds, pairsOf_pair, List.foldl_cons]

/-- The last element answers the hash. -/
theorem exec_hpush_answers_last (ha : s.act = true) (hr : s.rem = 1) (y : Word64) :
    exec (.hpush y) s = .next (respond .data (finish64 s [y]) (goIdle64 s)) := by
  cases hp : s.ph with
  | false =>
    rw [exec_hpush_drop y ha hp hr, finish64, held64, hp]
    rfl
  | true =>
    rw [exec_hpush_lastPair y ha hp hr, finish64, held64, hp]
    rfl

/-- An element that is not the last leaves an open sequence, one element shorter, with the same hash to come. -/
theorem exec_hpush_answers_ack (ha : s.act = true) (hr : s.rem ≠ 1) (y : Word64) (ys : List Word64) :
    ∃ u, exec (.hpush y) s = .next (respond .ack 0 u) ∧ u.cfg = s.cfg ∧ u.act = true ∧ u.rsps = s.rsps ∧
      u.rem = s.rem - 1 ∧ finish64 u ys = finish64 s (y :: ys) := by
  cases hp : s.ph with
  | false => exact ⟨_, exec_hpush_hold y ha hp hr, rfl, ha, rfl, rfl, finish64_hold64 hp y ys⟩
  | true => exact ⟨_, exec_hpush_pair y ha hp hr, rfl, ha, rfl, rfl, finish64_mixed64 hp y ys⟩

end

theorem serves_owes64 : Serves Owes64 where
  done h := by
    cases h with
    | idle ha => exact ⟨rfl, ha⟩
  undisturbed {cs as s t} hsame h := by
    have hfin := finish64_congr hsame
    obtain ⟨hcfg, hact, -, -, -, hrem, -, -, -, -, -⟩ := hsame
    cases h with
    | idle ha => exact .idle (hact.trans ha)
    | rest y ys hw hl ha hr =>
      rw [← hfin]
      exact .rest y ys (hcfg ▸ hw) hl (hact.trans ha) (hrem.trans hr)
    | whole xs hw hl =>
      rw [← hcfg]
      exact .whole xs (hcfg ▸ hw) hl
  next {w cs as s} h := by
    cases h with
    | rest y ys hw hl ha hr =>
      have hd : decode s.cfg.hashWidth (encode (.hpush y)) = .instr (.hpush y) := hw ▸ decode_encode_hpush y
      cases ys with
      | nil => exact ⟨_, _, _, _, hd, exec_hpush_answers_last ha hr y, rfl, rfl, .idle rfl⟩
      | cons z zs =>
        have hr1 : s.rem ≠ 1 := hr ▸ ofNat_add_two_ne_one hl
        obtain ⟨u, hx, hcfg, hact, hrsps, hrem, hfin⟩ := exec_hpush_answers_ack ha hr1 y (z :: zs)
        rw [hr, List.length_cons, ofNat_succ_sub_one] at hrem
        rw [← hfin]
        exact ⟨_, _, _, _, hd, hx, congrArg (· ++ _) hrsps, hashAnswers_succ _ _,
          .rest (s := respond .ack 0 u) z zs (hcfg ▸ hw) (Nat.lt_of_succ_lt hl) hact hrem⟩
    | whole xs hw hl =>
      have hd : decode s.cfg.hashWidth (encode (.hinit (BitVec.ofNat 64 xs.length))) = .instr (.hinit _) :=
        hw ▸ decode_encode_hinit _
      cases xs with
      | nil => exact ⟨_, _, _, _, hd, exec_hinit_zero s, rfl, rfl, .idle rfl⟩
      | cons y ys =>
        rw [← finish64_open64]
        exact ⟨_, _, _, _, hd, exec_hinit_open (ofNat_succ_ne_zero hl) s, rfl, hashAnswers_succ _ _,
          .rest (s := respond .ack 0 (open64 _ s)) y ys hw hl rfl rfl⟩

/-- Settles O36: the hash words of the stream are those a whole sequence is owed. -/
theorem hashStreamAnswersHash64 : Obligations.HashStreamAnswersHash64 := by
  unfold Obligations.HashStreamAnswersHash64
  intro s xs ws rest hw hl hws ho
  have howes : Owes64 (ws.filter isHashWord) (hashAnswers xs.length (seqHash64 s.cfg.cH2B xs)) s := by
    rw [hws, hashStream64_eq]
    exact .whole xs hw hl
  obtain ⟨t, rs, ⟨hrun, hrsps, hlen⟩, hact, hin, hanswers⟩ := serves_owes64.stream howes ho
  exact ⟨t, rs, hrun, hact, hin, hrsps, hlen, hanswers⟩

/-! ## A sequence in a 32-bit build -/

/-- The datum that an open 32-bit unit answers after the elements `ys`. -/
def finish32 (s : State) (ys : List Word32) : Word64 := placeSingle (fin32 (ys.foldl round32 s.h1_32) s.cnt_32)

/-- The words that push `ys` in a 32-bit build. -/
def pushWords32 (ys : List Word32) : List CommandWord := ys.map fun y => encode (.hpush32 y)

/-- The same of a 32-bit build: none while idle, the rest of an open sequence, or a whole one. -/
inductive Owes32 : List CommandWord → List Response → State → Prop where
  | idle {s : State} : s.act = false → Owes32 [] [] s
  | rest {s : State} (y : Word32) (ys : List Word32) : s.cfg.hashWidth = .w32 → ys.length + 1 < 2 ^ 32 →
      s.act = true → s.rem_32 = BitVec.ofNat 32 (ys.length + 1) →
      Owes32 (encode (.hpush32 y) :: pushWords32 ys) (hashAnswers ys.length (finish32 s (y :: ys))) s
  | whole {s : State} (xs : List Word32) : s.cfg.hashWidth = .w32 → xs.length < 2 ^ 32 →
      Owes32 (encode (.hinit32 (BitVec.ofNat 32 xs.length)) :: pushWords32 xs)
        (hashAnswers xs.length (placeSingle (seqHash32 xs))) s

theorem decode_encode_hinit32 (n : Word32) : decode .w32 (encode (.hinit32 n)) = .instr (.hinit32 n) :=
  decodeInvertsEncode .w32 (.hinit32 n) rfl

theorem decode_encode_hpush32 (k : Word32) : decode .w32 (encode (.hpush32 k)) = .instr (.hpush32 k) :=
  decodeInvertsEncode .w32 (.hpush32 k) rfl

theorem finish32_open32 (s : State) (xs : List Word32) :
    finish32 (open32 (BitVec.ofNat 32 xs.length) s) xs = placeSingle (seqHash32 xs) := rfl

/-- Mixing an element does not change what the sequence comes to. -/
theorem finish32_mixed32 (s : State) (y : Word32) (ys : List Word32) :
    finish32 (mixed32 (round32 s.h1_32 y) s) ys = finish32 s (y :: ys) := rfl

theorem serves_owes32 : Serves Owes32 where
  done h := by
    cases h with
    | idle ha => exact ⟨rfl, ha⟩
  undisturbed {cs as s t} hsame h := by
    obtain ⟨hcfg, hact, -, -, -, -, -, -, h1, hcnt, hrem⟩ := hsame
    have hfin (ys : List Word32) : finish32 t ys = finish32 s ys := by rw [finish32, h1, hcnt, finish32]
    cases h with
    | idle ha => exact .idle (hact.trans ha)
    | rest y ys hw hl ha hr =>
      rw [← hfin]
      exact .rest y ys (hcfg ▸ hw) hl (hact.trans ha) (hrem.trans hr)
    | whole xs hw hl => exact .whole xs (hcfg ▸ hw) hl
  next {w cs as s} h := by
    cases h with
    | rest y ys hw hl ha hr =>
      have hd : decode s.cfg.hashWidth (encode (.hpush32 y)) = .instr (.hpush32 y) := hw ▸ decode_encode_hpush32 y
      cases ys with
      | nil => exact ⟨_, _, _, _, hd, exec_hpush32_last y ha hr, rfl, rfl, .idle rfl⟩
      | cons z zs =>
        have hr1 : s.rem_32 ≠ 1 := hr ▸ ofNat_add_two_ne_one hl
        have hrem : s.rem_32 - 1 = BitVec.ofNat 32 (zs.length + 1) := hr ▸ ofNat_succ_sub_one 32 _
        rw [← finish32_mixed32]
        exact ⟨_, _, _, _, hd, exec_hpush32_mix y ha hr1, rfl, hashAnswers_succ _ _,
          .rest (s := respond .ack 0 (mixed32 _ s)) z zs hw (Nat.lt_of_succ_lt hl) ha hrem⟩
    | whole xs hw hl =>
      have hd : decode s.cfg.hashWidth (encode (.hinit32 (BitVec.ofNat 32 xs.length))) = .instr (.hinit32 _) :=
        hw ▸ decode_encode_hinit32 _
      cases xs with
      | nil => exact ⟨_, _, _, _, hd, exec_hinit32_zero s, rfl, rfl, .idle rfl⟩
      | cons y ys =>
        rw [← finish32_open32 s]
        exact ⟨_, _, _, _, hd, exec_hinit32_open (ofNat_succ_ne_zero hl) s, rfl, hashAnswers_succ _ _,
          .rest (s := respond .ack 0 (open32 _ s)) y ys hw hl rfl rfl⟩

/-- Settles O37: the hash words of the stream are those a whole sequence is owed. -/
theorem hashStreamAnswersHash32 : Obligations.HashStreamAnswersHash32 := by
  unfold Obligations.HashStreamAnswersHash32
  intro s xs ws rest hw hl hws ho
  have howes : Owes32 (ws.filter isHashWord) (hashAnswers xs.length (placeSingle (seqHash32 xs))) s := by
    rw [hws]
    exact .whole xs hw hl
  obtain ⟨t, rs, ⟨hrun, hrsps, hlen⟩, hact, hin, hanswers⟩ := serves_owes32.stream howes ho
  exact ⟨t, rs, hrun, hact, hin, hrsps, hlen, hanswers⟩

end Sys2Proof.Machine
end

section
/-! The hash functions (41_hash64.md R82, section 4) and the text form of a whole sequence (30_encoding.md R54). -/

namespace Sys2Proof.Machine

/-! ## The avalanche mix is a bijection (R82) -/

/-- A second xor-shift by 33 shifts by 66 in all, which leaves nothing. -/
theorem xorShift33_xorShift33 (k : Word64) : xorShift33 (xorShift33 k) = k := by
  have h66 : k >>> 33 >>> 33 = 0#64 := by
    rw [← BitVec.shiftRight_add]
    exact BitVec.ushiftRight_eq_zero (by decide)
  rw [xorShift33, xorShift33, BitVec.ushiftRight_xor_distrib, h66, BitVec.xor_zero, BitVec.xor_assoc, BitVec.xor_self,
    BitVec.xor_zero]

theorem bijective_xorShift33 : Function.Bijective xorShift33 :=
  Function.Involutive.bijective xorShift33_xorShift33

/-- Multiplying by a word that has an inverse is a bijection. -/
theorem bijective_mul_of_inverse {c d : Word64} (h : d * c = 1#64) : Function.Bijective (c * ·) := by
  have hdc (x : Word64) : d * (c * x) = x := by rw [← BitVec.mul_assoc, h, BitVec.one_mul]
  have hcd (x : Word64) : c * (d * x) = x := by rw [← BitVec.mul_assoc, BitVec.mul_comm c, h, BitVec.one_mul]
  exact Function.bijective_iff_has_inverse.2 ⟨(d * ·), hdc, hcd⟩

/-- Settles O26: xor-shifts undo themselves, and the two odd factors have inverses modulo 2^64. -/
theorem fmix64Bijective : Obligations.Fmix64Bijective := by
  unfold Obligations.Fmix64Bijective
  have h1 : Function.Bijective (FM1 * ·) := bijective_mul_of_inverse (d := 0x4f74430c22a54005#64) (by decide)
  have h2 : Function.Bijective (FM2 * ·) := bijective_mul_of_inverse (d := 0x9cb4b2f8129337db#64) (by decide)
  exact bijective_xorShift33.comp (h2.comp (bijective_xorShift33.comp (h1.comp bijective_xorShift33)))

/-! ## Values of the hash (section 4) -/

/-- The count stands in both accumulators, and with no pair mixed the finalisation cancels it. -/
theorem fin64_init64 (n : Word64) : fin64 (init64 n).1 (init64 n).2 n = fin64 C1 C2 0 := by
  simp only [fin64, init64, BitVec.xor_assoc, BitVec.xor_self]
  rfl

/-- Settles O30: neither sequence has a pair, and the count cancels. -/
theorem singletonHashesAsEmpty : Obligations.SingletonHashesAsEmpty := by
  unfold Obligations.SingletonHashesAsEmpty
  intro c v
  exact (fin64_init64 1).trans (fin64_init64 0).symm

/-- Settles O31: the six values, evaluated. -/
theorem pinnedHashes : Obligations.PinnedHashes := by
  unfold Obligations.PinnedHashes
  decide

/-! ## The text form (30_encoding.md R53, R54) -/

/-- An element written without sign is its word. -/
theorem elementOf_toNat (x : Word64) : elementOf (x.toNat : Int) = some x := by
  have hx := x.isLt
  rw [elementOf, if_pos (by omega), BitVec.ofInt_natCast, BitVec.ofNat_toNat, BitVec.setWidth_eq]

/-- An element written with its sign is its word. -/
theorem elementOf_toInt (x : Word64) : elementOf x.toInt = some x := by
  have hlow := BitVec.le_toInt x
  have hhigh := BitVec.toInt_lt (x := x)
  rw [elementOf, if_pos (by omega), BitVec.ofInt_toInt]

/-- A spelling that every element is read back from serves for a whole sequence. -/
theorem elementsOf_map {f : Word64 → Int} (hf : ∀ x, elementOf (f x) = some x) (xs : List Word64) :
    elementsOf (xs.map f) = some xs := by
  induction xs with
  | nil => rfl
  | cons x xs ih => simp only [List.map_cons, elementsOf, hf, ih]

theorem assembleLine_hash {f : Word64 → Int} (hf : ∀ x, elementOf (f x) = some x) (xs : List Word64) :
    assembleLine (.hash (xs.map f)) = some (hashStream64 xs) := by
  rw [assembleLine, elementsOf_map hf]
  rfl

/-- Settles O7: either spelling of the elements is read back, and the words are one for HINIT and one for each. -/
theorem assembledHashStream : Obligations.AssembledHashStream := by
  unfold Obligations.AssembledHashStream
  intro xs
  refine ⟨assembleLine_hash elementOf_toNat xs, assembleLine_hash elementOf_toInt xs, ?_⟩
  rw [hashStream64_eq, pushWords64, List.length_cons, List.length_map]

end Sys2Proof.Machine
end

section
/-! H2F is exact (40_half_codec.md section 3): the single of a half has its sign and its value. -/

namespace Sys2Proof.Machine

/-! ## The fields of a pattern as parts of its number (R56, R57) -/

theorem halfSign_eq (h : Half) : halfSign h = decide (2 ^ 15 ≤ h.toNat) :=
  BitVec.msb_eq_decide h

theorem halfExp_eq (h : Half) : halfExp h = h.toNat / 2 ^ 10 % 2 ^ 5 := by
  rw [halfExp, BitVec.extractLsb'_toNat, Nat.shiftRight_eq_div_pow]

theorem halfSig_eq (h : Half) : halfSig h = h.toNat % 2 ^ 10 := by
  rw [halfSig, BitVec.extractLsb'_toNat, Nat.shiftRight_zero]

theorem singleSign_eq (x : Single) : singleSign x = decide (2 ^ 31 ≤ x.toNat) :=
  BitVec.msb_eq_decide x

theorem singleExp_eq (x : Single) : singleExp x = x.toNat / 2 ^ 23 % 2 ^ 8 := by
  rw [singleExp, BitVec.extractLsb'_toNat, Nat.shiftRight_eq_div_pow]

theorem singleSig_eq (x : Single) : singleSig x = x.toNat % 2 ^ 23 := by
  rw [singleSig, BitVec.extractLsb'_toNat, Nat.shiftRight_zero]

theorem halfExp_eq_zero_iff (h : Half) : halfExp h = 0 ↔ h &&& 0x7c00#16 = 0#16 := by
  have he := toNat_halfExpField h
  rw [halfExp_eq, BitVec.toNat_eq, he, BitVec.toNat_ofNat]
  omega

theorem halfExp_eq_allOnes_iff (h : Half) : halfExp h = 31 ↔ h &&& 0x7c00#16 = 0x7c00#16 := by
  have he := toNat_halfExpField h
  rw [halfExp_eq, BitVec.toNat_eq, he, BitVec.toNat_ofNat]
  omega

theorem halfSig_eq_zero_iff (h : Half) : halfSig h = 0 ↔ h &&& 0x03ff#16 = 0#16 := by
  have hm := toNat_halfSigField h
  rw [halfSig_eq, BitVec.toNat_eq, hm]
  rfl

theorem toNat_mod_ne_zero {h : Half} (hm : h &&& 0x03ff#16 ≠ 0#16) : h.toNat % 2 ^ 10 ≠ 0 :=
  fun h0 => hm ((halfSig_eq_zero_iff h).1 ((halfSig_eq h).trans h0))

theorem halfIsFinite_iff (h : Half) : halfIsFinite h = true ↔ h &&& 0x7c00#16 ≠ 0x7c00#16 := by
  rw [halfIsFinite, bne_iff_ne, Ne, halfExp_eq_allOnes_iff]

theorem halfIsInf_iff (h : Half) : halfIsInf h = true ↔ h &&& 0x7c00#16 = 0x7c00#16 ∧ h &&& 0x03ff#16 = 0#16 := by
  rw [halfIsInf, Bool.and_eq_true, beq_iff_eq, beq_iff_eq, halfExp_eq_allOnes_iff, halfSig_eq_zero_iff]

theorem halfIsNan_iff (h : Half) : halfIsNan h = true ↔ h &&& 0x7c00#16 = 0x7c00#16 ∧ h &&& 0x03ff#16 ≠ 0#16 := by
  rw [halfIsNan, Bool.and_eq_true, beq_iff_eq, bne_iff_ne, Ne, halfExp_eq_allOnes_iff, halfSig_eq_zero_iff]

/-! ## The single's number, case by case -/

theorem toNat_h2fSign (i : Half) : (h2fSign i).toNat = i.toNat / 2 ^ 15 * 2 ^ 31 := by
  have hs : (i &&& 0x8000#16).toNat = i.toNat / 2 ^ 15 % 2 ^ 1 * 2 ^ 15 :=
    (BitVec.toNat_and ..).trans (and_fieldMask _ 1 15)
  rw [h2fSign, BitVec.toNat_shiftLeft, BitVec.toNat_setWidth, hs, Nat.shiftLeft_eq]
  omega

/-- The sign and the magnitude below it. -/
theorem toNat_h2fSign_or {i : Half} {m : Single} (hm : m.toNat < 2 ^ 31) :
    (h2fSign i ||| m).toNat = i.toNat / 2 ^ 15 * 2 ^ 31 + m.toNat := by
  rw [toNat_or_of_disjoint 31 (by rw [toNat_h2fSign]; omega) hm, toNat_h2fSign]

theorem toNat_h2fNormal {i : Half} (h : i &&& 0x7c00#16 ≠ 0x7c00#16) :
    (h2fNormal i).toNat = i.toNat / 2 ^ 15 * 2 ^ 31 + (0x1c000 + i.toNat % 2 ^ 15) * 2 ^ 13 := by
  have hle := toNat_halfMagnitude_le h
  have hm := toNat_halfMagnitude i
  have hval : ((0x1c000#32 + (i &&& 0x7fff#16).setWidth 32) <<< 13).toNat = (0x1c000 + i.toNat % 2 ^ 15) * 2 ^ 13 := by
    rw [BitVec.toNat_shiftLeft, BitVec.toNat_add, BitVec.toNat_setWidth, hm, BitVec.toNat_ofNat, Nat.shiftLeft_eq]
    omega
  rw [h2fNormal, toNat_h2fSign_or (by omega), hval]

/-- A subnormal's significand, shifted up to bit 10, has 11 bits. -/
theorem normalizedSig_bounds {m : Nat} (h0 : m ≠ 0) (h : m < 2 ^ 10) :
    2 ^ 10 ≤ m * 2 ^ (10 - Nat.log2 m) ∧ m * 2 ^ (10 - Nat.log2 m) < 2 ^ 11 := by
  have hL : Nat.log2 m < 10 := (Nat.log2_lt h0).2 h
  have hlow : 2 ^ Nat.log2 m ≤ m := Nat.log2_self_le h0
  have hhigh : m < 2 ^ (Nat.log2 m + 1) := Nat.lt_log2_self
  constructor
  · calc 2 ^ 10 = 2 ^ Nat.log2 m * 2 ^ (10 - Nat.log2 m) := by rw [← Nat.pow_add]; congr 1; omega
      _ ≤ m * 2 ^ (10 - Nat.log2 m) := Nat.mul_le_mul_right _ hlow
  · calc m * 2 ^ (10 - Nat.log2 m) < 2 ^ (Nat.log2 m + 1) * 2 ^ (10 - Nat.log2 m) :=
        Nat.mul_lt_mul_of_pos_right hhigh (by positivity)
      _ = 2 ^ 11 := by rw [← Nat.pow_add]; congr 1; omega

theorem placeSingle_injective : Function.Injective placeSingle := by
  intro x y h
  have hnat := congrArg BitVec.toNat h
  rw [placeSingle, placeSingle, BitVec.toNat_setWidth_of_le (by decide), BitVec.toNat_setWidth_of_le (by decide)] at hnat
  exact BitVec.eq_of_toNat_eq hnat

/-- Two answers of H2F in one state are the same only where its conversion gives the same. -/
theorem h2f_eq_of_next_eq {i : Half} {y : Single} {s : State}
    (h : exec (.h2f i) s = .next (respond .data (placeSingle y) s)) : h2f i = y := by
  rw [exec_h2f, Host.Outcome.next.injEq] at h
  have hrsps := congrArg State.rsps h
  rw [respond_rsps, respond_rsps, List.append_cancel_left_eq, List.singleton_inj, Response.mk.injEq] at hrsps
  exact placeSingle_injective hrsps.2

theorem toNat_h2f_subnormal {i : Half} (he : i &&& 0x7c00#16 = 0#16) (hi : i &&& 0x03ff#16 ≠ 0#16) :
    let m := i.toNat % 2 ^ 10
    (h2f i).toNat = i.toNat / 2 ^ 15 * 2 ^ 31 + (103 + Nat.log2 m) * 2 ^ 23 +
      (m * 2 ^ (10 - Nat.log2 m) - 2 ^ 10) * 2 ^ 13 := by
  intro m
  have hmNat : ((i &&& 0x03ff#16).setWidth 32 : Single).toNat = m := toNat_h2fSig i
  have hm0 : m ≠ 0 := toNat_mod_ne_zero hi
  obtain ⟨hlow, hhigh⟩ := normalizedSig_bounds hm0 (Nat.mod_lt _ (by decide))
  obtain ⟨h1, h10, hexp, -, -, hx⟩ := h2fSubnormalNormalised i State.reset he hi
  rw [hmNat] at h1 h10 hexp hx
  rw [h2f_eq_of_next_eq hx]
  have hfield : (BitVec.ofNat 32 (113 - (10 - Nat.log2 m)) <<< 23).toNat = (103 + Nat.log2 m) * 2 ^ 23 := by
    rw [BitVec.toNat_shiftLeft, BitVec.toNat_ofNat, Nat.shiftLeft_eq, hexp]
    omega
  have hshift : (((i &&& 0x03ff#16).setWidth 32 : Single) <<< (10 - Nat.log2 m)).toNat = m * 2 ^ (10 - Nat.log2 m) := by
    rw [BitVec.toNat_shiftLeft, hmNat, Nat.shiftLeft_eq]
    omega
  have hsig : (((((i &&& 0x03ff#16).setWidth 32 : Single) <<< (10 - Nat.log2 m)) &&& 0x3ff#32) <<< 13).toNat =
      (m * 2 ^ (10 - Nat.log2 m) - 2 ^ 10) * 2 ^ 13 := by
    have hmask : ∀ a : Single, (a &&& 0x3ff#32).toNat = a.toNat % 2 ^ 10 := fun a =>
      (BitVec.toNat_and ..).trans (Nat.and_two_pow_sub_one_eq_mod _ 10)
    rw [BitVec.toNat_shiftLeft, hmask, hshift, Nat.shiftLeft_eq]
    omega
  have hsign := toNat_h2fSign_or (i := i) (m := BitVec.ofNat 32 (113 - (10 - Nat.log2 m)) <<< 23) (by omega)
  change ((h2fSign i ||| _) ||| _).toNat = _
  rw [toNat_or_of_disjoint 23 (by omega) (by omega), hsign, hfield, hsig]

/-! ## Sign and value -/

/-- A single put together from its three fields. -/
theorem single_fields {y : Single} {s e f : Nat} (he : e < 2 ^ 8) (hf : f < 2 ^ 23)
    (h : y.toNat = s * 2 ^ 31 + e * 2 ^ 23 + f) : singleExp y = e ∧ singleSig y = f := by
  rw [singleExp_eq, singleSig_eq, h]
  omega

theorem singleUnits_of_exp {y : Single} (h : singleExp y ≠ 0) :
    singleUnits y = (2 ^ 23 + singleSig y) * 2 ^ (singleExp y - 1) := if_neg h

theorem singleIsFinite_iff (y : Single) : singleIsFinite y = true ↔ singleExp y ≠ 255 := bne_iff_ne

/-- Exactness of a finite half's single. -/
def ExactSingle (i : Half) (y : Single) : Prop := singleIsFinite y = true ∧ singleUnits y = halfInSingleUnits i

theorem h2f_zero_exact {i : Half} (he : i &&& 0x7c00#16 = 0#16) (hm : i &&& 0x03ff#16 = 0#16) :
    ExactSingle i (h2f i) := by
  have hval : (h2f i).toNat = i.toNat / 2 ^ 15 * 2 ^ 31 + 0 * 2 ^ 23 + 0 := by
    rw [h2f_zero ((h2fExp_eq_iff i 0).2 he) ((h2fSig_eq_zero_iff i).2 hm), h2fZero, toNat_h2fSign, Nat.zero_mul, Nat.add_zero]
  obtain ⟨hexp, hsig⟩ := single_fields (by decide) (by decide) hval
  refine ⟨(singleIsFinite_iff _).2 (by omega), ?_⟩
  rw [singleUnits, if_pos hexp, hsig, halfInSingleUnits, halfUnits, if_pos ((halfExp_eq_zero_iff i).2 he),
    (halfSig_eq_zero_iff i).2 hm, Nat.zero_mul]

/-- The shifts that normalise the significand are taken back by the exponent. -/
theorem h2f_subnormal_exact {i : Half} (he : i &&& 0x7c00#16 = 0#16) (hm : i &&& 0x03ff#16 ≠ 0#16) :
    ExactSingle i (h2f i) := by
  have hval := toNat_h2f_subnormal he hm
  have hm0 : i.toNat % 2 ^ 10 ≠ 0 := toNat_mod_ne_zero hm
  have hL : Nat.log2 (i.toNat % 2 ^ 10) < 10 := (Nat.log2_lt hm0).2 (Nat.mod_lt _ (by decide))
  obtain ⟨hlow, hhigh⟩ := normalizedSig_bounds hm0 (Nat.mod_lt _ (by decide))
  obtain ⟨hexp, hsig⟩ := single_fields (by omega) (by omega) hval
  refine ⟨(singleIsFinite_iff _).2 (by omega), ?_⟩
  rw [singleUnits_of_exp (by omega), hexp, hsig, halfInSingleUnits, halfUnits, if_pos ((halfExp_eq_zero_iff i).2 he),
    halfSig_eq]
  generalize i.toNat % 2 ^ 10 = m at *
  have hpow : 2 ^ (10 - Nat.log2 m) * (2 ^ 13 * 2 ^ (103 + Nat.log2 m - 1)) = 2 ^ 125 := by
    rw [← Nat.pow_add, ← Nat.pow_add]
    congr 1
    omega
  have hsum : 2 ^ 23 + (m * 2 ^ (10 - Nat.log2 m) - 2 ^ 10) * 2 ^ 13 = m * 2 ^ (10 - Nat.log2 m) * 2 ^ 13 := by omega
  rw [hsum, Nat.mul_assoc, Nat.mul_assoc, hpow]

/-- The two biases differ by 112, the two significands by 13 bits. -/
theorem h2f_normal_exact {i : Half} (h0 : i &&& 0x7c00#16 ≠ 0#16) (h1 : i &&& 0x7c00#16 ≠ 0x7c00#16) :
    ExactSingle i (h2f i) := by
  have hval : (h2f i).toNat =
      i.toNat / 2 ^ 15 * 2 ^ 31 + (halfExp i + 112) * 2 ^ 23 + halfSig i * 2 ^ 13 := by
    rw [h2f_normal (mt (h2fExp_eq_iff i 0).1 h0) (mt (h2fExp_eq_iff i 0x7c00#16).1 h1), toNat_h2fNormal h1, halfExp_eq,
      halfSig_eq]
    omega
  have hexp0 : halfExp i ≠ 0 := mt (halfExp_eq_zero_iff i).1 h0
  have hexp31 : halfExp i ≠ 31 := mt (halfExp_eq_allOnes_iff i).1 h1
  have hexpLt : halfExp i < 2 ^ 5 := BitVec.isLt _
  have hsigLt : halfSig i < 2 ^ 10 := BitVec.isLt _
  obtain ⟨hexp, hsig⟩ := single_fields (by omega) (by omega) hval
  refine ⟨(singleIsFinite_iff _).2 (by omega), ?_⟩
  rw [singleUnits_of_exp (by omega), hexp, hsig, halfInSingleUnits, halfUnits, if_neg hexp0]
  have hpow : 2 ^ 13 * 2 ^ (halfExp i + 112 - 1) = 2 ^ (halfExp i - 1) * 2 ^ 125 := by
    rw [← Nat.pow_add, ← Nat.pow_add]
    congr 1
    omega
  have hsum : 2 ^ 23 + halfSig i * 2 ^ 13 = (1024 + halfSig i) * 2 ^ 13 := by omega
  rw [hsum, Nat.mul_assoc, hpow, Nat.mul_assoc]

/-- The single of a finite half is finite and has its value. -/
theorem h2f_exact {i : Half} (h : i &&& 0x7c00#16 ≠ 0x7c00#16) : ExactSingle i (h2f i) := by
  by_cases he : i &&& 0x7c00#16 = 0#16
  · by_cases hm : i &&& 0x03ff#16 = 0#16
    · exact h2f_zero_exact he hm
    · exact h2f_subnormal_exact he hm
  · exact h2f_normal_exact he h

/-- In every case the sign bit is the half's. -/
theorem toNat_h2f_div (i : Half) : (h2f i).toNat / 2 ^ 31 = i.toNat / 2 ^ 15 := by
  by_cases h1 : i &&& 0x7c00#16 = 0x7c00#16
  · have hval := toNat_h2fInfOrNan i
    rw [toNat_h2fSign] at hval
    rw [h2f_of_exp_allOnes h1]
    omega
  by_cases h0 : i &&& 0x7c00#16 = 0#16
  · by_cases hm : i &&& 0x03ff#16 = 0#16
    · rw [h2f_zero ((h2fExp_eq_iff i 0).2 h0) ((h2fSig_eq_zero_iff i).2 hm), h2fZero, toNat_h2fSign]
      omega
    · have hval := toNat_h2f_subnormal h0 hm
      have hm0 : i.toNat % 2 ^ 10 ≠ 0 := toNat_mod_ne_zero hm
      obtain ⟨hlow, hhigh⟩ := normalizedSig_bounds hm0 (Nat.mod_lt _ (by decide))
      have hL : Nat.log2 (i.toNat % 2 ^ 10) < 10 := (Nat.log2_lt hm0).2 (Nat.mod_lt _ (by decide))
      omega
  · have hval := toNat_h2fNormal h1
    have hle := toNat_halfMagnitude_le h1
    have hmag := toNat_halfMagnitude i
    rw [h2f_normal (mt (h2fExp_eq_iff i 0).1 h0) (mt (h2fExp_eq_iff i 0x7c00#16).1 h1)]
    omega

theorem singleSign_h2f (i : Half) : singleSign (h2f i) = halfSign i := by
  have hdiv := toNat_h2f_div i
  rw [singleSign_eq, halfSign_eq, decide_eq_decide]
  omega

/-- Settles O12: finite halfs are converted exactly, and the INF_OR_NAN case keeps its two kinds apart. -/
theorem h2fIsExact : Obligations.H2fIsExact := by
  unfold Obligations.H2fIsExact
  intro i s
  refine ⟨h2f i, exec_h2f i s, singleSign_h2f i, ?_, ?_, ?_⟩
  · intro h
    exact h2f_exact ((halfIsFinite_iff i).1 h)
  · intro h
    obtain ⟨he, hm⟩ := (halfIsInf_iff i).1 h
    rw [h2f_of_exp_allOnes he]
    exact singleIsInf_h2fInfOrNan hm
  · intro h
    obtain ⟨he, hm⟩ := (halfIsNan_iff i).1 h
    rw [h2f_of_exp_allOnes he]
    exact singleIsNan_h2fInfOrNan hm

end Sys2Proof.Machine
end

section
/-! Rounding to the halfs (40_half_codec.md R58, R67): their values in order, and the one that a value rounds to, the
nearest and of two the larger. -/

namespace Sys2Proof.Machine

/-! ## The values of the halfs, in order -/

/-- The value, in units of 2^-24, of the half magnitude with the bits `m`: exponent and significand. -/
def unitsOf (m : Nat) : Nat := if m / 2 ^ 10 = 0 then m else (1024 + m % 2 ^ 10) * 2 ^ (m / 2 ^ 10 - 1)

theorem halfUnits_eq (h : Half) : halfUnits h = unitsOf (h.toNat % 2 ^ 15) := by
  have he : h.toNat % 2 ^ 15 / 2 ^ 10 = h.toNat / 2 ^ 10 % 2 ^ 5 := by omega
  have hm : h.toNat % 2 ^ 15 % 2 ^ 10 = h.toNat % 2 ^ 10 := by omega
  rw [halfUnits, unitsOf, halfExp_eq, halfSig_eq, he, hm]
  split <;> omega

/-- From `k` times 1024 on, where the spacing is `2 ^ k`, up to the next power of two and including it. -/
theorem unitsOf_eq {k q : Nat} (hq : q ≤ 2048) (hk : k = 0 ∨ 1024 ≤ q) : unitsOf (k * 1024 + q) = q * 2 ^ k := by
  rw [unitsOf]
  rcases Nat.lt_or_ge q 1024 with hlt | hge
  · obtain rfl : k = 0 := by omega
    rw [if_pos (by omega)]
    omega
  · rw [if_neg (by omega)]
    rcases Nat.lt_or_eq_of_le hq with hlt | rfl
    · have hexp : (k * 1024 + q) / 2 ^ 10 - 1 = k := by omega
      have hsig : 1024 + (k * 1024 + q) % 2 ^ 10 = q := by omega
      rw [hexp, hsig]
    · have hexp : (k * 1024 + 2048) / 2 ^ 10 - 1 = k + 1 := by omega
      have hsig : 1024 + (k * 1024 + 2048) % 2 ^ 10 = 1024 := by omega
      rw [hexp, hsig, Nat.pow_succ]
      omega

/-- Every magnitude stands at some place in a stretch of equal spacing, with the next one in the same stretch. -/
theorem exists_stretch (m : Nat) : ∃ k q, m = k * 1024 + q ∧ q < 2048 ∧ (k = 0 ∨ 1024 ≤ q) :=
  ⟨m / 1024 - 1, m - (m / 1024 - 1) * 1024, by omega, by omega, by omega⟩

theorem unitsOf_succ {k q : Nat} (hq : q < 2048) (hk : k = 0 ∨ 1024 ≤ q) :
    unitsOf (k * 1024 + q + 1) = unitsOf (k * 1024 + q) + 2 ^ k := by
  rw [Nat.add_assoc, unitsOf_eq hq (by omega), unitsOf_eq hq.le hk, Nat.succ_mul]

/-- Above such a place the spacing does not shrink. -/
theorem unitsOf_add_le_succ {k q : Nat} (hq : q ≤ 2048) (hk : k = 0 ∨ 1024 ≤ q) :
    unitsOf (k * 1024 + q) + 2 ^ k ≤ unitsOf (k * 1024 + q + 1) := by
  rcases Nat.lt_or_eq_of_le hq with hlt | rfl
  · exact (unitsOf_succ hlt hk).ge
  · have hplace : k * 1024 + 2048 = (k + 1) * 1024 + 1024 := by omega
    rw [hplace, unitsOf_succ (by decide) (.inr le_rfl)]
    exact Nat.add_le_add_left (Nat.pow_le_pow_right (by decide) k.le_succ) _

theorem strictMono_unitsOf : StrictMono unitsOf := by
  apply strictMono_nat_of_lt_succ
  intro m
  obtain ⟨k, q, rfl, hq, hk⟩ := exists_stretch m
  rw [unitsOf_succ hq hk]
  exact Nat.lt_add_of_pos_right (by positivity)

/-! ## Rounding to nearest, ties to the larger -/

/-- Of the half magnitudes up to infinity's, `X` units of 2^-149 round to `m`: the middle between `m` and any smaller one
is at most `X`, and the middle between `m` and any larger one is above `X`. -/
def RoundsTo (X m : Nat) : Prop :=
  m ≤ 0x7c00 ∧ (∀ j, j < m → (unitsOf j + unitsOf m) * 2 ^ 125 ≤ 2 * X) ∧
  ∀ j, m < j → j ≤ 0x7c00 → 2 * X < (unitsOf m + unitsOf j) * 2 ^ 125

section
variable {X m n : Nat}

theorem RoundsTo.le (h : RoundsTo X m) : m ≤ 0x7c00 := h.1

/-- There is one such magnitude. -/
theorem RoundsTo.unique (hm : RoundsTo X m) (hn : RoundsTo X n) : m = n := by
  obtain ⟨hmle, hmlow, hmhigh⟩ := hm
  obtain ⟨hnle, hnlow, hnhigh⟩ := hn
  rcases Nat.lt_trichotomy m n with hlt | heq | hgt
  · exact absurd (hnlow m hlt) (Nat.not_le.2 (hmhigh n hlt hnle))
  · exact heq
  · exact absurd (hmlow n hgt) (Nat.not_le.2 (hnhigh m hgt hmle))

/-- A half's own value rounds to it. -/
theorem roundsTo_self (h : m ≤ 0x7c00) : RoundsTo (unitsOf m * 2 ^ 125) m := by
  refine ⟨h, fun j hj => ?_, fun j hj _ => ?_⟩
  · have := strictMono_unitsOf hj
    omega
  · have := strictMono_unitsOf hj
    omega

/-- A smaller magnitude is at least as far away and, if as far, smaller in value; so is a larger one, which is farther
away. -/
theorem RoundsTo.nearest (h : RoundsTo X m) (hn : n ≤ 0x7c00) :
    distance X (unitsOf m * 2 ^ 125) ≤ distance X (unitsOf n * 2 ^ 125) ∧
    (distance X (unitsOf m * 2 ^ 125) = distance X (unitsOf n * 2 ^ 125) → unitsOf n ≤ unitsOf m) := by
  obtain ⟨-, hlow, hhigh⟩ := h
  unfold distance
  rcases Nat.lt_trichotomy n m with hlt | rfl | hgt
  · have hmid := hlow n hlt
    have hval := strictMono_unitsOf hlt
    omega
  · exact ⟨le_rfl, fun _ => le_rfl⟩
  · have hmid := hhigh n hgt hn
    have hval := strictMono_unitsOf hgt
    omega

/-- A value within half a spacing of `q` spacings, the lower middle included. At the bottom of a stretch, where the
spacing below is smaller, it must not be below. -/
theorem roundsTo_of_near {k q : Nat} (hk : k = 0 ∨ 1024 ≤ q) (hq : q ≤ 2048) (hle : k * 1024 + q ≤ 0x7c00)
    (hlow : (2 * q - 1) * 2 ^ k * 2 ^ 125 ≤ 2 * X) (hbottom : k ≠ 0 → q = 1024 → q * 2 ^ k * 2 ^ 125 ≤ X)
    (hhigh : 2 * X < (2 * q + 1) * 2 ^ k * 2 ^ 125) : RoundsTo X (k * 1024 + q) := by
  have hval : unitsOf (k * 1024 + q) = q * 2 ^ k := unitsOf_eq hq hk
  refine ⟨hle, fun j hj => ?_, fun j hj _ => ?_⟩
  · by_cases hb : k ≠ 0 ∧ q = 1024
    · have hX := hbottom hb.1 hb.2
      have hj' := strictMono_unitsOf hj
      rw [hval] at hj' ⊢
      calc (unitsOf j + q * 2 ^ k) * 2 ^ 125 ≤ (q * 2 ^ k + q * 2 ^ k) * 2 ^ 125 := Nat.mul_le_mul_right _ (by omega)
        _ = 2 * (q * 2 ^ k * 2 ^ 125) := by rw [← Nat.two_mul, Nat.mul_assoc]
        _ ≤ 2 * X := Nat.mul_le_mul_left 2 hX
    · have hbelow : unitsOf (k * 1024 + (q - 1)) = (q - 1) * 2 ^ k := unitsOf_eq (by omega) (by omega)
      have hj' : unitsOf j ≤ unitsOf (k * 1024 + (q - 1)) := strictMono_unitsOf.monotone (by omega)
      rw [hbelow] at hj'
      have hq1 : q - 1 + q = 2 * q - 1 := by omega
      have hsum : (q - 1) * 2 ^ k + q * 2 ^ k = (2 * q - 1) * 2 ^ k := by rw [← Nat.add_mul, hq1]
      rw [hval]
      calc (unitsOf j + q * 2 ^ k) * 2 ^ 125 ≤ ((q - 1) * 2 ^ k + q * 2 ^ k) * 2 ^ 125 := by gcongr
        _ ≤ 2 * X := by rwa [hsum]
  · have hj' : unitsOf (k * 1024 + q + 1) ≤ unitsOf j := strictMono_unitsOf.monotone hj
    have hstep := unitsOf_add_le_succ hq hk
    have hsum : q * 2 ^ k + q * 2 ^ k + 2 ^ k = (2 * q + 1) * 2 ^ k := by rw [Nat.succ_mul, Nat.two_mul, Nat.add_mul]
    rw [hval] at hstep ⊢
    calc 2 * X < (q * 2 ^ k + q * 2 ^ k + 2 ^ k) * 2 ^ 125 := by rwa [hsum]
      _ ≤ (q * 2 ^ k + unitsOf j) * 2 ^ 125 := Nat.mul_le_mul_right _ (by omega)

/-- The same in multiples of some `c`, in which the spacing is `p` and the value is `a`. -/
theorem roundsTo_of_near_scaled {k q a c p : Nat} (hX : X = a * c) (hp : 2 ^ k * 2 ^ 125 = p * c) (hc : 0 < c)
    (hk : k = 0 ∨ 1024 ≤ q) (hq : q ≤ 2048) (hle : k * 1024 + q ≤ 0x7c00) (hlow : (2 * q - 1) * p ≤ 2 * a)
    (hbottom : k ≠ 0 → q = 1024 → q * p ≤ a) (hhigh : 2 * a < (2 * q + 1) * p) : RoundsTo X (k * 1024 + q) := by
  have hscale (n : Nat) : n * 2 ^ k * 2 ^ 125 = n * p * c := by rw [Nat.mul_assoc, hp, Nat.mul_assoc]
  have hX2 : 2 * X = 2 * a * c := by rw [hX, Nat.mul_assoc]
  refine roundsTo_of_near hk hq hle ?_ ?_ ?_
  · rw [hscale, hX2]
    exact Nat.mul_le_mul_right c hlow
  · intro h0 h1
    rw [hscale, hX]
    exact Nat.mul_le_mul_right c (hbottom h0 h1)
  · rw [hscale, hX2]
    exact Nat.mul_lt_mul_of_pos_right hhigh hc

theorem unitsOf_infinity : unitsOf 0x7c00 = 65536 * 2 ^ 24 := rfl

theorem unitsOf_largest : unitsOf 0x7bff = 65504 * 2 ^ 24 := rfl

/-- 65520 is the middle between the largest finite half and 65536. -/
theorem overflow_middle : (65504 * 2 ^ 24 + 65536 * 2 ^ 24) * 2 ^ 125 = 2 * (65520 * 2 ^ 149) := by decide

/-- From that middle on everything rounds to infinity. -/
theorem roundsTo_infinity (h : 65520 * 2 ^ 149 ≤ X) : RoundsTo X 0x7c00 := by
  refine ⟨le_rfl, fun j hj => ?_, fun j hj hj' => absurd hj (Nat.not_lt.2 hj')⟩
  have hj' : unitsOf j ≤ unitsOf 0x7bff := strictMono_unitsOf.monotone (by omega)
  rw [unitsOf_largest] at hj'
  rw [unitsOf_infinity]
  calc (unitsOf j + 65536 * 2 ^ 24) * 2 ^ 125 ≤ (65504 * 2 ^ 24 + 65536 * 2 ^ 24) * 2 ^ 125 :=
        Nat.mul_le_mul_right _ (Nat.add_le_add_right hj' _)
    _ = 2 * (65520 * 2 ^ 149) := overflow_middle
    _ ≤ 2 * X := Nat.mul_le_mul_left 2 h

/-- Below it everything above 65504 rounds to 65504. -/
theorem roundsTo_largest (h0 : 65504 * 2 ^ 149 < X) (h1 : X < 65520 * 2 ^ 149) : RoundsTo X 0x7bff := by
  refine ⟨by decide, fun j hj => ?_, fun j hj hj' => ?_⟩
  · have hj' := (strictMono_unitsOf hj).le
    rw [unitsOf_largest] at hj' ⊢
    calc (unitsOf j + 65504 * 2 ^ 24) * 2 ^ 125 ≤ (65504 * 2 ^ 24 + 65504 * 2 ^ 24) * 2 ^ 125 :=
          Nat.mul_le_mul_right _ (Nat.add_le_add_right hj' _)
      _ = 2 * (65504 * 2 ^ 149) := by decide
      _ ≤ 2 * X := Nat.mul_le_mul_left 2 h0.le
  · obtain rfl : j = 0x7c00 := by omega
    rw [unitsOf_largest, unitsOf_infinity, overflow_middle]
    exact Nat.mul_lt_mul_of_pos_left h1 (by decide)

end

end Sys2Proof.Machine
end

section
/-! F2H rounds to nearest, ties away from zero (40_half_codec.md R67): what each of its cases rounds to. -/

namespace Sys2Proof.Machine

/-! ## What each case of F2H rounds to -/

section
variable {x : Single}

theorem toNat_f2hSign_eq (x : Single) : (f2hSign x).toNat = x.toNat / 2 ^ 31 * 2 ^ 15 := by
  have hs : (f2hSign x).toNat = (x >>> 16).toNat / 2 ^ 15 % 2 ^ 1 * 2 ^ 15 :=
    (BitVec.toNat_and ..).trans (and_fieldMask _ 1 15)
  rw [hs, BitVec.toNat_ushiftRight, Nat.shiftRight_eq_div_pow]
  omega

/-- The half made of the sign and a magnitude of 15 bits. -/
theorem toNat_extract_sign_or {m : Single} (hm : m.toNat < 2 ^ 15) :
    ((f2hSign x ||| m).extractLsb' 0 16).toNat = x.toNat / 2 ^ 31 * 2 ^ 15 + m.toNat := by
  rw [BitVec.extractLsb'_toNat, toNat_f2hSign_or hm, toNat_f2hSign_eq, Nat.shiftRight_zero]
  omega

theorem toNat_f2hExp_eq (x : Single) : (f2hExp x).toNat = singleExp x * 2 ^ 23 := by
  rw [toNat_f2hExp, singleExp_eq]

/-- F2H of `x` has the sign of `x`, and its magnitude is what the value of `x` rounds to. -/
def RoundedHalf (x : Single) (h : Half) : Prop :=
  ∃ m, RoundsTo (singleUnits x) m ∧ h.toNat = x.toNat / 2 ^ 31 * 2 ^ 15 + m

/-- Below exponent field 102 the value is less than half of the smallest half's. -/
theorem f2h_zero_rounded (h : singleExp x < 102) : RoundedHalf x (f2h x) := by
  have hsigLt : singleSig x < 2 ^ 23 := BitVec.isLt _
  have hX : singleUnits x < 2 ^ 124 := by
    rw [singleUnits]
    split
    · omega
    · calc (2 ^ 23 + singleSig x) * 2 ^ (singleExp x - 1) ≤ (2 ^ 23 + singleSig x) * 2 ^ 100 :=
          Nat.mul_le_mul_left _ (Nat.pow_le_pow_right (by decide) (by omega))
        _ < 2 ^ 124 := by omega
  have hexp : f2hExp x < 0x33000000#32 := by
    rw [BitVec.lt_def, toNat_f2hExp_eq, BitVec.toNat_ofNat]
    omega
  have hval : (f2h x).toNat = x.toNat / 2 ^ 31 * 2 ^ 15 + 0 := by
    rw [f2h_zero hexp, f2hZero, ← BitVec.or_zero (x := f2hSign x)]
    exact toNat_extract_sign_or (by decide)
  exact ⟨0, roundsTo_of_near (k := 0) (q := 0) (.inl rfl) (by omega) (by omega) (by omega) (by omega) (by omega), hval⟩

/-- A number shifted right by `k` and rounded to its upper bits is the nearest multiple of `2 ^ (k + 13)`. -/
theorem roundedShift_bounds (a k : Nat) :
    (2 * ((a / 2 ^ k + 0x1000) / 2 ^ 13) - 1) * 2 ^ (k + 13) ≤ 2 * a ∧
    2 * a < (2 * ((a / 2 ^ k + 0x1000) / 2 ^ 13) + 1) * 2 ^ (k + 13) := by
  have hle : a / 2 ^ k * 2 ^ k ≤ a := Nat.div_mul_le_self _ _
  have hlt : a < (a / 2 ^ k + 1) * 2 ^ k := Nat.lt_mul_of_div_lt (Nat.lt_succ_self _) (by positivity)
  generalize a / 2 ^ k = b at *
  have hpow (c : Nat) : c * 2 ^ (k + 13) = 2 * (c * 2 ^ 12 * 2 ^ k) := by rw [Nat.pow_add]; ring
  rw [hpow, hpow]
  constructor
  · have h : (2 * ((b + 0x1000) / 2 ^ 13) - 1) * 2 ^ 12 ≤ b := by omega
    have := Nat.mul_le_mul_right (2 ^ k) h
    omega
  · have h : b + 1 ≤ (2 * ((b + 0x1000) / 2 ^ 13) + 1) * 2 ^ 12 := by omega
    have := Nat.mul_le_mul_right (2 ^ k) h
    omega

theorem f2h_subnormal_rounded (h0 : 102 ≤ singleExp x) (h1 : singleExp x ≤ 112) : RoundedHalf x (f2h x) := by
  have hsigLt : singleSig x < 2 ^ 23 := BitVec.isLt _
  have hexp := toNat_f2hExp_eq x
  have ht : (f2hExp x >>> 23).toNat = singleExp x := by
    rw [BitVec.toNat_ushiftRight, hexp, Nat.shiftRight_eq_div_pow]
    omega
  have ha : (f2hSig x ||| 0x800000#32).toNat = 2 ^ 23 + singleSig x := by rw [toNat_f2hSig_leadingOne, singleSig_eq]
  have hm3 := toNat_roundedSubnormal (m := f2hSig x ||| 0x800000#32) (113 - singleExp x) (by omega)
  obtain ⟨-, hle⟩ := roundedSubnormal_bounds (a := 2 ^ 23 + singleSig x) (k := 113 - singleExp x) (by omega) (by omega)
    (by omega) (by omega)
  obtain ⟨hlow, hhigh⟩ := roundedShift_bounds (2 ^ 23 + singleSig x) (113 - singleExp x)
  rw [ha] at hm3
  have hval : (f2h x).toNat = x.toNat / 2 ^ 31 * 2 ^ 15 +
      ((2 ^ 23 + singleSig x) / 2 ^ (113 - singleExp x) + 0x1000) / 2 ^ 13 := by
    rw [f2h_subnormal (by rw [BitVec.le_def, hexp, BitVec.toNat_ofNat]; omega)
      (by rw [BitVec.le_def, hexp, BitVec.toNat_ofNat]; omega), f2hSubnormal, ht, BitVec.add_comm,
      toNat_extract_sign_or (by omega), hm3]
  have hspacing : 2 ^ 0 * 2 ^ 125 = 2 ^ (113 - singleExp x + 13) * 2 ^ (singleExp x - 1) := by
    rw [← Nat.pow_add, ← Nat.pow_add]
    congr 1
    omega
  have hround := roundsTo_of_near_scaled (singleUnits_of_exp (y := x) (by omega)) hspacing (by positivity) (.inl rfl)
    (by omega) (by omega) hlow (by omega) hhigh
  rw [Nat.zero_mul, Nat.zero_add] at hround
  exact ⟨_, hround, hval⟩

theorem f2h_normal_rounded (h0 : 113 ≤ singleExp x) (h1 : singleExp x ≤ 142) : RoundedHalf x (f2h x) := by
  have hsigLt : singleSig x < 2 ^ 23 := BitVec.isLt _
  have hexp := toNat_f2hExp_eq x
  have hexpLow : 0x38000000#32 < f2hExp x := by rw [BitVec.lt_def, hexp, BitVec.toNat_ofNat]; omega
  have hexpHigh : f2hExp x < 0x47800000#32 := by rw [BitVec.lt_def, hexp, BitVec.toNat_ofNat]; omega
  have hsum := toNat_normalSum hexpLow
  rw [← singleExp_eq, ← singleSig_eq] at hsum
  have hval : (f2h x).toNat = x.toNat / 2 ^ 31 * 2 ^ 15 +
      ((singleExp x - 113) * 1024 + (1024 + (singleSig x + 0x1000) / 2 ^ 13)) := by
    rw [f2h_normal hexpLow hexpHigh, f2hNormal_eq, f2hSign_add_eq_or (by omega), toNat_extract_sign_or (by omega), hsum]
    omega
  have hspacing : 2 ^ (singleExp x - 113) * 2 ^ 125 = 2 ^ 13 * 2 ^ (singleExp x - 1) := by
    rw [← Nat.pow_add, ← Nat.pow_add]
    congr 1
    omega
  exact ⟨_, roundsTo_of_near_scaled (singleUnits_of_exp (y := x) (by omega)) hspacing (by positivity) (.inr (by omega))
    (by omega) (by omega) (by omega) (by omega) (by omega), hval⟩

theorem f2h_infinity_rounded (h0 : 143 ≤ singleExp x) (h1 : singleExp x ≠ 255) : RoundedHalf x (f2h x) := by
  have hlt : singleExp x < 2 ^ 8 := BitVec.isLt _
  have hexp := toNat_f2hExp_eq x
  have hfin : ¬ (f2hExp x = 0x7f800000#32 ∧ f2hSig x ≠ 0#32) := by
    rintro ⟨he, -⟩
    rw [he, BitVec.toNat_ofNat] at hexp
    omega
  have hval : (f2h x).toNat = x.toNat / 2 ^ 31 * 2 ^ 15 + 0x7c00 := by
    rw [f2h_infinity (by rw [BitVec.le_def, hexp, BitVec.toNat_ofNat]; omega) hfin, f2hInfinity]
    exact toNat_extract_sign_or (by decide)
  have hX : 65520 * 2 ^ 149 ≤ singleUnits x := by
    rw [singleUnits_of_exp (by omega)]
    calc 65520 * 2 ^ 149 ≤ 2 ^ 23 * 2 ^ 142 := by decide
      _ ≤ (2 ^ 23 + singleSig x) * 2 ^ (singleExp x - 1) :=
        Nat.mul_le_mul (Nat.le_add_right _ _) (Nat.pow_le_pow_right (by decide) (by omega))
  exact ⟨_, roundsTo_infinity hX, hval⟩

/-- F2H rounds every finite single. -/
theorem f2h_rounded (h : singleIsFinite x = true) : RoundedHalf x (f2h x) := by
  have hfin := (singleIsFinite_iff x).1 h
  by_cases h0 : singleExp x < 102
  · exact f2h_zero_rounded h0
  by_cases h1 : singleExp x ≤ 112
  · exact f2h_subnormal_rounded (by omega) h1
  by_cases h2 : singleExp x ≤ 142
  · exact f2h_normal_rounded (by omega) h2
  · exact f2h_infinity_rounded (by omega) hfin

/-! ## What a rounded half is -/

theorem halfIsNan_eq_false_iff (h : Half) : halfIsNan h = false ↔ h.toNat % 2 ^ 15 ≤ 0x7c00 := by
  have hsig : halfSig h = h.toNat % 2 ^ 10 := halfSig_eq h
  have hexp : halfExp h = h.toNat / 2 ^ 10 % 2 ^ 5 := halfExp_eq h
  rw [← Bool.not_eq_true, halfIsNan, Bool.and_eq_true, beq_iff_eq, bne_iff_ne]
  omega

/-- Its magnitude is the one that the single rounds to, and its sign bit the single's. -/
theorem RoundedHalf.parts {h : Half} (hr : RoundedHalf x h) :
    RoundsTo (singleUnits x) (h.toNat % 2 ^ 15) ∧ h.toNat / 2 ^ 15 = x.toNat / 2 ^ 31 := by
  obtain ⟨m, hm, hval⟩ := hr
  have hle := hm.le
  have hmag : h.toNat % 2 ^ 15 = m := by omega
  exact ⟨hmag ▸ hm, by omega⟩

/-- A half with given sign and magnitude is that one. -/
theorem RoundedHalf.eq_of_roundsTo {h g : Half} (hr : RoundedHalf x h)
    (hg : RoundsTo (singleUnits x) (g.toNat % 2 ^ 15)) (hs : g.toNat / 2 ^ 15 = x.toNat / 2 ^ 31) : h = g := by
  obtain ⟨hm, hsign⟩ := hr.parts
  have hmag := hm.unique hg
  apply BitVec.eq_of_toNat_eq
  omega

end

/-- Settles O19: the rounded magnitude is nearest, ties to the larger, and its sign is the single's. -/
theorem f2hNearestTiesAwayFromZero : Obligations.F2hNearestTiesAwayFromZero := by
  unfold Obligations.F2hNearestTiesAwayFromZero
  intro x s hx
  obtain ⟨hm, hsign⟩ := (f2h_rounded hx).parts
  refine ⟨f2h x, exec_f2h x s, ?_, (halfIsNan_eq_false_iff _).2 hm.le, ?_⟩
  · rw [halfSign_eq, singleSign_eq, decide_eq_decide]
    omega
  · intro g hg
    rw [halfInSingleUnits, halfInSingleUnits, halfUnits_eq, halfUnits_eq]
    exact hm.nearest ((halfIsNan_eq_false_iff g).1 hg)

end Sys2Proof.Machine
end

section
/-! What follows from rounding: overflow begins at 65520 (40_half_codec.md R80), and F2H undoes H2F (R77), which is
thus injective (R75). -/

namespace Sys2Proof.Machine

/-! ## Overflow (R80) -/

/-- The half that a finite single rounds to is what F2H answers. -/
theorem exec_f2h_of_roundsTo {x : Single} {g : Half} (hx : singleIsFinite x = true)
    (hg : RoundsTo (singleUnits x) (g.toNat % 2 ^ 15)) (hs : g.toNat / 2 ^ 15 = x.toNat / 2 ^ 31) (s : State) :
    exec (.f2h x) s = .next { s with rsps := s.rsps ++ [{ rtype := .data, rdata := placeHalf g }] } :=
  exec_f2h_of_datum (congrArg placeHalf ((f2h_rounded hx).eq_of_roundsTo hg hs)) s

theorem signBit_of_singleSign {x : Single} {b : Bool} (h : singleSign x = b) : x.toNat / 2 ^ 31 = b.toNat := by
  rw [singleSign_eq] at h
  cases b with
  | false =>
    have hx := of_decide_eq_false h
    rw [Bool.toNat_false]
    omega
  | true =>
    have hx := of_decide_eq_true h
    rw [Bool.toNat_true]
    omega

/-- Settles O23: what such a single rounds to is 65536 or 65504, and its sign is kept. -/
theorem overflowBoundary : Obligations.OverflowBoundary := by
  unfold Obligations.OverflowBoundary
  intro x s hx
  constructor
  · intro h
    have hround := roundsTo_infinity h
    cases hs : singleSign x with
    | false => exact exec_f2h_of_roundsTo (g := 0x7c00#16) hx hround (signBit_of_singleSign hs).symm s
    | true => exact exec_f2h_of_roundsTo (g := 0xfc00#16) hx hround (signBit_of_singleSign hs).symm s
  · intro h0 h1
    have hround := roundsTo_largest h0 h1
    cases hs : singleSign x with
    | false => exact exec_f2h_of_roundsTo (g := 0x7bff#16) hx hround (signBit_of_singleSign hs).symm s
    | true => exact exec_f2h_of_roundsTo (g := 0xfbff#16) hx hround (signBit_of_singleSign hs).symm s

/-! ## The round trip (R77) -/

/-- A finite half's single has a half's own value, which rounds to that half. -/
theorem f2h_h2f_finite {h : Half} (hf : h &&& 0x7c00#16 ≠ 0x7c00#16) : f2h (h2f h) = h := by
  obtain ⟨hfin, hunits⟩ := h2f_exact hf
  have hmag := toNat_halfMagnitude_le hf
  rw [toNat_halfMagnitude] at hmag
  apply (f2h_rounded hfin).eq_of_roundsTo
  · rw [hunits, halfInSingleUnits, halfUnits_eq]
    exact roundsTo_self (by omega)
  · exact (toNat_h2f_div h).symm

theorem f2h_h2f_infinity {h : Half} (he : h &&& 0x7c00#16 = 0x7c00#16) (hm : h &&& 0x03ff#16 = 0#16) :
    f2h (h2f h) = h := by
  have hsign := toNat_h2f_div h
  have hexp := toNat_halfExpField h
  have hsig := toNat_halfSigField h
  rw [h2f_of_exp_allOnes he] at hsign ⊢
  have hsig0 := (f2hSig_h2fInfOrNan_eq_zero_iff h).2 hm
  have hval : (f2h (h2fInfOrNan h)).toNat = (h2fInfOrNan h).toNat / 2 ^ 31 * 2 ^ 15 + 0x7c00 := by
    rw [f2h_infinity (by rw [f2hExp_h2fInfOrNan]; decide) (fun hn => hn.2 hsig0), f2hInfinity]
    exact toNat_extract_sign_or (by decide)
  rw [he, BitVec.toNat_ofNat] at hexp
  rw [hm, BitVec.toNat_ofNat] at hsig
  apply BitVec.eq_of_toNat_eq
  omega

/-- A half NaN's payload comes back whole, and being non-zero it is not forced. -/
theorem f2h_h2f_nan {h : Half} (he : h &&& 0x7c00#16 = 0x7c00#16) (hm : h &&& 0x03ff#16 ≠ 0#16) :
    f2h (h2f h) = h := by
  have hsign := toNat_h2f_div h
  have hexp := toNat_halfExpField h
  have hm0 := toNat_mod_ne_zero hm
  have hin := toNat_h2fInfOrNan h
  rw [toNat_h2fSign] at hin
  rw [h2f_of_exp_allOnes he] at hsign ⊢
  have hpayload : (f2hSig (h2fInfOrNan h) >>> 13).toNat = h.toNat % 2 ^ 10 := by
    rw [BitVec.toNat_ushiftRight, toNat_f2hSig, Nat.shiftRight_eq_div_pow]
    omega
  have hne : f2hSig (h2fInfOrNan h) >>> 13 ≠ 0#32 := BitVec.toNat_ne.2 (hpayload ▸ hm0)
  have hsig0 := mt (f2hSig_h2fInfOrNan_eq_zero_iff h).1 hm
  have hval := toNat_f2hNan (h2fInfOrNan h)
  rw [nanPayload, if_neg hne, hpayload, toNat_f2hSign_eq] at hval
  rw [f2h_nan (f2hExp_h2fInfOrNan h) hsig0]
  rw [he, BitVec.toNat_ofNat] at hexp
  apply BitVec.eq_of_toNat_eq
  omega

theorem f2h_h2f (h : Half) : f2h (h2f h) = h := by
  by_cases he : h &&& 0x7c00#16 = 0x7c00#16
  · by_cases hm : h &&& 0x03ff#16 = 0#16
    · exact f2h_h2f_infinity he hm
    · exact f2h_h2f_nan he hm
  · exact f2h_h2f_finite he

/-- Settles O20: the conversions' composite is the identity, and the datum of H2F is its single. -/
theorem halfRoundTrip : Obligations.HalfRoundTrip := by
  unfold Obligations.HalfRoundTrip
  intro h
  exact ⟨h2f h, fun s t => ⟨exec_h2f h s, exec_f2h_of_datum (congrArg placeHalf (f2h_h2f h)) t⟩⟩

/-- Settles O13: equal next states mean equal singles, and F2H gives each half back. -/
theorem h2fIsInjective : Obligations.H2fIsInjective := by
  unfold Obligations.H2fIsInjective
  intro i j s h
  have heq : h2f i = h2f j := h2f_eq_of_next_eq (h.trans (exec_h2f j s))
  calc i = f2h (h2f i) := (f2h_h2f i).symm
    _ = f2h (h2f j) := congrArg f2h heq
    _ = j := f2h_h2f j

end Sys2Proof.Machine
end
